-- ==== Sys2Proof/Word.lean ====
section
/-! DEFINITION. The word types of SPIM-BT (00_scope.md R10, 30_encoding.md R92, R95). -/

namespace Sys2Proof

/-- A byte: 8 bits, bit 0 least significant (00_scope.md R10). -/
abbrev Byte := BitVec 8

/-- A command word (30_encoding.md R92). -/
abbrev CmdWord := BitVec 32

/-- A response word (30_encoding.md R95). -/
abbrev RespWord := BitVec 16

/-- The DATA field of a response word, 10 bits (30_encoding.md R95). -/
abbrev RespData := BitVec 10

end Sys2Proof
end

