-- ==== Sys2Proof/Config.lean ====
section
/-! DEFINITION. The configuration record `Cfg` of 00_scope.md R8 and R9, its default values, and the free values. -/

namespace Sys2Proof

/-- The configuration of one SPIM-BT, in the names of 00_scope.md R8 and R9.
No rule is written over a default; every rule is written over these names. -/
structure Cfg where
  /-- Frequency of the slave's oscillator in Hz (R8). -/
  F_OSC_HZ : Nat
  /-- Prescaler field of the design (R8). -/
  BT_BRP : Byte
  /-- Propagation-segment field of the design (R8). -/
  BT_PROP : Byte
  /-- Phase-segment-1 field of the design (R8). -/
  BT_PS1 : Byte
  /-- Phase-segment-2 field of the design (R8). -/
  BT_PS2 : Byte
  /-- Count of receive buffers (R8). -/
  N_RX_BUF : Nat
  /-- Width of the propagation-segment field (R8). -/
  W_PROP : Nat
  /-- Bit position of phase segment 1 in the combined register (R8). -/
  PS1_SHIFT : Nat
  /-- The dummy byte (R8, D12). -/
  DUMMY : Byte
  /-- Width of the prescaler field (R8, D17). -/
  W_BRP : Nat
  /-- Width of the phase-segment-1 field (R8, D17). -/
  W_PS1 : Nat
  /-- Width of the phase-segment-2 field (R8, D17). -/
  W_PS2 : Nat
  /-- Count of transmit buffers (R8, D16). -/
  N_TX_BUF : Nat
  /-- Length of the synchronisation segment in time quanta (R8, D19). -/
  SYNC_TQ : Nat
  /-- Whether diagnostics are built in (R8, D22). -/
  DIAG_ENABLED : Bool
  /-- OPEN: ratio of the host clock to SCK (R8). -/
  SCK_DIV : Nat
  /-- OPEN: length of the wait after the reset frame (R8). -/
  RESET_SETTLE_CYCLES : Nat
  /-- OPEN: which host pin drives chip-select (R8). -/
  CS_PIN : Nat
  /-- Command bytes (R9). -/
  CMD_RESET : Byte
  CMD_READ : Byte
  CMD_WRITE : Byte
  CMD_BITMOD : Byte
  CMD_RTS_BASE : Byte
  CMD_RDSTAT : Byte
  CMD_RDRXB_BASE : Byte
  /-- Bit positions of the two selectors of read_receive_buffer (R9). -/
  RDRXB_BUF_SHIFT : Nat
  RDRXB_DATA_SHIFT : Nat
  /-- Register addresses of the slave (R9). -/
  ADDR_CNF1 : Byte
  ADDR_CNF2 : Byte
  ADDR_CNF3 : Byte
  ADDR_CANCTRL : Byte
  ADDR_CANSTAT : Byte
  ADDR_RXB0CTRL : Byte
  ADDR_RXB1CTRL : Byte
  ADDR_CANINTF : Byte
  /-- Mode bits (R9). -/
  MODE_MASK : Byte
  MODE_NORMAL : Byte
  MODE_LOOPBACK : Byte
  MODE_CONFIG : Byte
  /-- Filter-bypass bits of a receive-buffer control register (R9). -/
  RXM_BYPASS_MASK : Byte
  /-- `RXIF_BIT(b)` of R9: the mask of buffer `b` stands at index `b`. -/
  RXIF_BIT : List Byte
  deriving DecidableEq, Repr

namespace Config

/-- OPEN parameter `SCK_DIV` (00_scope.md R8): a constant nothing is known of (log 7). -/
opaque sckDiv : Nat

/-- OPEN parameter `RESET_SETTLE_CYCLES` (00_scope.md R8): a constant nothing is known of (log 7). -/
opaque resetSettleCycles : Nat

/-- OPEN parameter `CS_PIN` (00_scope.md R8): a constant nothing is known of (log 7). -/
opaque csPin : Nat

/-- Free value: the sample a selected slave under no law gives at draw `n` (20_memory.md R70; log 3). -/
opaque misoSample : Nat → Bool

/-- Free value: `draw 1` at draw `n`, the sample with no slave selected (20_memory.md R71; log 4). -/
opaque drawBit : Nat → Bool

/-- Free value: the unspecified byte an out-of-range selector sends, at draw `n`
(41_frames.md R155, R157; 93_implementation_defined.md U3, U4; log 5). -/
opaque drawByte : Nat → Byte

end Config

/-- The defaults of 00_scope.md R8 and R9. The numeric wire constants are PRESUMED (the spec's
general-knowledge defaults; log 6), the three OPEN parameters are free constants (log 7). -/
def Cfg.default : Cfg where
  F_OSC_HZ := 16000000
  BT_BRP := 1
  BT_PROP := 1
  BT_PS1 := 2
  BT_PS2 := 2
  N_RX_BUF := 2
  W_PROP := 3
  PS1_SHIFT := 3
  DUMMY := 0x00
  W_BRP := 6
  W_PS1 := 3
  W_PS2 := 3
  N_TX_BUF := 3
  SYNC_TQ := 1
  DIAG_ENABLED := false
  SCK_DIV := Config.sckDiv
  RESET_SETTLE_CYCLES := Config.resetSettleCycles
  CS_PIN := Config.csPin
  CMD_RESET := 0xC0
  CMD_READ := 0x03
  CMD_WRITE := 0x02
  CMD_BITMOD := 0x05
  CMD_RTS_BASE := 0x80
  CMD_RDSTAT := 0xA0
  CMD_RDRXB_BASE := 0x90
  RDRXB_BUF_SHIFT := 2
  RDRXB_DATA_SHIFT := 1
  ADDR_CNF1 := 0x2A
  ADDR_CNF2 := 0x29
  ADDR_CNF3 := 0x28
  ADDR_CANCTRL := 0x0F
  ADDR_CANSTAT := 0x0E
  ADDR_RXB0CTRL := 0x60
  ADDR_RXB1CTRL := 0x70
  ADDR_CANINTF := 0x2C
  MODE_MASK := 0xE0
  MODE_NORMAL := 0x00
  MODE_LOOPBACK := 0x40
  MODE_CONFIG := 0x80
  RXM_BYPASS_MASK := 0x60
  RXIF_BIT := [0x01, 0x02]

end Sys2Proof
end

