-- ==== Sys2Proof/Syntax.lean ====
section
/-! DEFINITION. The commands of SPIM-BT: one constructor per row of spec/opcode_table.json (30_encoding.md R94).
Every constructor carries the three operand bytes of the command word: a command uses the ones its row names and
ignores the others, but all three are latched on acceptance (R91, R93, 10_state.md R42). -/

namespace Sys2Proof

/-- A command word's meaning: the operation and the fields `A`, `B`, `C` (30_encoding.md R92, R94). -/
inductive Instr where
  /-- 0x00 SPI_INIT (40_transport.md R121). -/
  | spiInit (a b c : Byte)
  /-- 0x01 CS_LOW (R123). -/
  | csLow (a b c : Byte)
  /-- 0x02 CS_HIGH (R124). -/
  | csHigh (a b c : Byte)
  /-- 0x03 XCHG, `a` = byte_out (R122). -/
  | xchg (a b c : Byte)
  /-- 0x10 F_RESET (41_frames.md R151). -/
  | fReset (a b c : Byte)
  /-- 0x11 F_READ, `a` = addr (R152). -/
  | fRead (a b c : Byte)
  /-- 0x12 F_WRITE, `a` = addr, `b` = value (R153). -/
  | fWrite (a b c : Byte)
  /-- 0x13 F_BITMOD, `a` = addr, `b` = mask, `c` = value (R154). -/
  | fBitmod (a b c : Byte)
  /-- 0x14 F_RTS, `a` = buffer selector (R155). -/
  | fRts (a b c : Byte)
  /-- 0x15 F_RDSTAT (R156). -/
  | fRdstat (a b c : Byte)
  /-- 0x16 F_RDRXB, `a` = buffer selector, `b` = data selector (R157). -/
  | fRdrxb (a b c : Byte)
  /-- 0x20 BT_TQ, `a` = brp (42_bittiming.md R181). -/
  | btTq (a b c : Byte)
  /-- 0x21 BT_SEGLEN, `a` = field (R182). -/
  | btSeglen (a b c : Byte)
  /-- 0x22 BT_PACK1, `a` = brp (R183). -/
  | btPack1 (a b c : Byte)
  /-- 0x23 BT_PACK2, `a` = prop, `b` = ps1 (R184). -/
  | btPack2 (a b c : Byte)
  /-- 0x24 BT_PACK3, `a` = ps2 (R185). -/
  | btPack3 (a b c : Byte)
  /-- 0x25 BT_NBT, `a` = prop, `b` = ps1, `c` = ps2 (R187). -/
  | btNbt (a b c : Byte)
  deriving DecidableEq, Repr

/-- Field `A` of a command. -/
def Instr.a : Instr → Byte
  | .spiInit a _ _ | .csLow a _ _ | .csHigh a _ _ | .xchg a _ _ | .fReset a _ _ | .fRead a _ _
  | .fWrite a _ _ | .fBitmod a _ _ | .fRts a _ _ | .fRdstat a _ _ | .fRdrxb a _ _ | .btTq a _ _
  | .btSeglen a _ _ | .btPack1 a _ _ | .btPack2 a _ _ | .btPack3 a _ _ | .btNbt a _ _ => a

/-- Field `B` of a command. -/
def Instr.b : Instr → Byte
  | .spiInit _ b _ | .csLow _ b _ | .csHigh _ b _ | .xchg _ b _ | .fReset _ b _ | .fRead _ b _
  | .fWrite _ b _ | .fBitmod _ b _ | .fRts _ b _ | .fRdstat _ b _ | .fRdrxb _ b _ | .btTq _ b _
  | .btSeglen _ b _ | .btPack1 _ b _ | .btPack2 _ b _ | .btPack3 _ b _ | .btNbt _ b _ => b

/-- Field `C` of a command. -/
def Instr.c : Instr → Byte
  | .spiInit _ _ c | .csLow _ _ c | .csHigh _ _ c | .xchg _ _ c | .fReset _ _ c | .fRead _ _ c
  | .fWrite _ _ c | .fBitmod _ _ c | .fRts _ _ c | .fRdstat _ _ c | .fRdrxb _ _ c | .btTq _ _ c
  | .btSeglen _ _ c | .btPack1 _ _ c | .btPack2 _ _ c | .btPack3 _ _ c | .btNbt _ _ c => c

/-- Why a word is no command: the only reason the decoder has (30_encoding.md R98). -/
inductive Reject where
  /-- `IllegalOp`: the field `OP` stands in no row of R94. The port answers it with `ERR = 1` (R96): safe, no stop. -/
  | illegalOp (op : Byte)
  deriving DecidableEq, Repr

end Sys2Proof
end

