-- ==== Sys2Proof/WellFormed.lean ====
section
/-! DEFINITION. What is well formed: a command word's `OP` (30_encoding.md R94, R98), a command, and a configuration. -/

namespace Sys2Proof

/-- `op` stands in the opcode map of 30_encoding.md R94; R98 lists the values that do not:
0x04 to 0x0F, 0x17 to 0x1F, 0x26 to 0xFF. -/
def opLegal (op : Byte) : Bool :=
  op.toNat ≤ 0x03 || (0x10 ≤ op.toNat && op.toNat ≤ 0x16) || (0x20 ≤ op.toNat && op.toNat ≤ 0x25)

/-- A 32-bit word is a legal command word (R98). -/
def wordLegal (w : CmdWord) : Bool := opLegal (w.extractLsb' 24 8)

/-- The code of a command in the field `OP` (30_encoding.md R94). -/
def Instr.op : Instr → Byte
  | .spiInit _ _ _ => 0x00
  | .csLow _ _ _ => 0x01
  | .csHigh _ _ _ => 0x02
  | .xchg _ _ _ => 0x03
  | .fReset _ _ _ => 0x10
  | .fRead _ _ _ => 0x11
  | .fWrite _ _ _ => 0x12
  | .fBitmod _ _ _ => 0x13
  | .fRts _ _ _ => 0x14
  | .fRdstat _ _ _ => 0x15
  | .fRdrxb _ _ _ => 0x16
  | .btTq _ _ _ => 0x20
  | .btSeglen _ _ _ => 0x21
  | .btPack1 _ _ _ => 0x22
  | .btPack2 _ _ _ => 0x23
  | .btPack3 _ _ _ => 0x24
  | .btNbt _ _ _ => 0x25

/-- A command is well formed when its `OP` is legal: operand values are never illegal (R93, R99),
so the check is on the operation alone and every term of `Instr` passes it. -/
def Instr.wf (i : Instr) : Bool := opLegal i.op

/-- The selectors `b`, `d` of F_RDRXB, shifted to their places, lie inside the command byte (30_encoding.md R103; log 23). -/
def Cfg.rdrxbInByte (g : Cfg) (b d : Nat) : Bool :=
  decide (b <<< g.RDRXB_BUF_SHIFT < 256) && decide (d <<< g.RDRXB_DATA_SHIFT < 256)

/-- Every pair of selectors of F_RDRXB in range. -/
def Cfg.rdrxbRange (g : Cfg) : List (Nat × Nat) := (List.range g.N_RX_BUF).flatMap (fun b => [(b, 0), (b, 1)])

/-- Every command byte the spec states, in the order of 00_scope.md R9 (the selector bytes of 30_encoding.md R102
and R103 written out over their ranges, where the selector lies inside the byte; log 23). -/
def Cfg.commandBytes (g : Cfg) : List Byte :=
  [g.CMD_RESET, g.CMD_READ, g.CMD_WRITE, g.CMD_BITMOD, g.CMD_RDSTAT]
    ++ ((List.range g.N_TX_BUF).filter (fun n => decide (n < 8))).map (fun n => g.CMD_RTS_BASE ||| BitVec.ofNat 8 (1 <<< n))
    ++ (g.rdrxbRange.filter (fun p => g.rdrxbInByte p.1 p.2)).map (fun p =>
        g.CMD_RDRXB_BASE ||| BitVec.ofNat 8 (p.1 <<< g.RDRXB_BUF_SHIFT)
          ||| BitVec.ofNat 8 (p.2 <<< g.RDRXB_DATA_SHIFT))

/-- Premise `CmdDistinct` of 20_memory.md R80: the command bytes are pairwise distinguishable. -/
def Cfg.cmdDistinct (g : Cfg) : Bool := decide g.commandBytes.Nodup

/-- A configuration is well formed: a positive oscillator frequency (R8), every selector of
`request_to_send` and `read_receive_buffer` inside the byte (30_encoding.md R102, R103), one receive mask for each
receive buffer (R9),
and distinguishable command bytes (R80). Nothing in the machine rests on it; statements that need it say so. -/
def Cfg.wf (g : Cfg) : Bool :=
  decide (0 < g.F_OSC_HZ) && decide (g.N_TX_BUF ≤ 8) && g.rdrxbRange.all (fun p => g.rdrxbInByte p.1 p.2)
    && decide (g.RXIF_BIT.length = g.N_RX_BUF) && g.cmdDistinct

end Sys2Proof
end

