-- ==== Sys2Proof/Decode.lean ====
section
/-! DEFINITION. Decoding a command word (30_encoding.md R92 to R94, R98) and, after it, encoding one (R106). -/

namespace Sys2Proof

/-- Field `OP`, bits 31:24 (R92). -/
def fieldOp (w : CmdWord) : Byte := w.extractLsb' 24 8

/-- Field `A`, bits 23:16 (R92). -/
def fieldA (w : CmdWord) : Byte := w.extractLsb' 16 8

/-- Field `B`, bits 15:8 (R92). -/
def fieldB (w : CmdWord) : Byte := w.extractLsb' 8 8

/-- Field `C`, bits 7:0 (R92). -/
def fieldC (w : CmdWord) : Byte := w.extractLsb' 0 8

/-- The opcode map of R94 on the four fields; every other `OP` is `IllegalOp` (R98). -/
def decodeFields (op a b c : Byte) : Except Reject Instr :=
  match op.toNat with
  | 0x00 => .ok (.spiInit a b c)
  | 0x01 => .ok (.csLow a b c)
  | 0x02 => .ok (.csHigh a b c)
  | 0x03 => .ok (.xchg a b c)
  | 0x10 => .ok (.fReset a b c)
  | 0x11 => .ok (.fRead a b c)
  | 0x12 => .ok (.fWrite a b c)
  | 0x13 => .ok (.fBitmod a b c)
  | 0x14 => .ok (.fRts a b c)
  | 0x15 => .ok (.fRdstat a b c)
  | 0x16 => .ok (.fRdrxb a b c)
  | 0x20 => .ok (.btTq a b c)
  | 0x21 => .ok (.btSeglen a b c)
  | 0x22 => .ok (.btPack1 a b c)
  | 0x23 => .ok (.btPack2 a b c)
  | 0x24 => .ok (.btPack3 a b c)
  | 0x25 => .ok (.btNbt a b c)
  | _ => .error (.illegalOp op)

/-- The decoder, total on every 32-bit word (R92, R94, R98). -/
def decode (w : CmdWord) : Except Reject Instr :=
  decodeFields (fieldOp w) (fieldA w) (fieldB w) (fieldC w)

/-- `word(OP, A, B, C)` of R106. -/
def wordOf (op a b c : Byte) : CmdWord := op ++ a ++ b ++ c

/-- The word of a command (R106). -/
def encode (i : Instr) : CmdWord := wordOf i.op i.a i.b i.c

/-- The command the decoder finds in the word `w` of `nbits` bits: one 32-bit command
word, bit 0 least significant (R92); a word shorter than 32 bits has zeros above. -/
def decodeTableWord (nbits w : Nat) : Option Instr :=
  match decode (BitVec.ofNat 32 (w % 2 ^ nbits)) with
  | .ok i => some i
  | .error _ => none

end Sys2Proof
end

