-- ==== Sys2Proof/Machine/State.lean ====
section
/-! DEFINITION. The state of the machine as plain data: every element of 10_state.md R21, the configuration of
00_scope.md R8 and R9, and the agents outside the block (host, platform, scheduler, slave). `State.reset` is the
power-on state of 10_state.md R42. -/

namespace Sys2Proof.Machine

/-- `FOP` of 10_state.md R21: `Idle` or the mnemonic of the command in progress. -/
inductive Fop where
  | idle | spiInit | csLow | csHigh | xchg | fReset | fRead | fWrite | fBitmod | fRts | fRdstat | fRdrxb
  | btTq | btSeglen | btPack1 | btPack2 | btPack3 | btNbt
  deriving DecidableEq, Repr

/-- The wire events of 00_scope.md R12. -/
inductive Event where
  /-- CS_N goes 1 to 0. -/
  | csFall
  /-- CS_N goes 0 to 1. -/
  | csRise
  /-- SCK goes 1 to 0 and MOSI takes level `m`. -/
  | sckFall (m : Bool)
  /-- SCK goes 0 to 1 and the master samples MISO as `s`. -/
  | sckRise (s : Bool)
  /-- A hardware reset stops the block driving its lines. -/
  | released
  deriving DecidableEq, Repr

/-- The one diagnostic event (10_state.md R41, 60_exceptions.md R224). -/
inductive DiagEvent where
  | verificationFailure (expected observed : Byte)
  deriving DecidableEq, Repr

/-- A contract of the host that a command broke (93_implementation_defined.md U1, U2, U5: `ContractBroken(Bracket)`):
the command, recorded; the machine goes on (log 11). -/
inductive Breach where
  | bracket (cmd : Fop)
  deriving DecidableEq, Repr

/-- A transport primitive the sequencer issues (41_frames.md R150). -/
inductive Prim where
  /-- CS_LOW (40_transport.md R123). -/
  | csLow
  /-- CS_HIGH (R124). -/
  | csHigh
  /-- XCHG (R122) of byte `out`, or of an unspecified byte (41_frames.md R155, R157) when `out` is `none`;
  `result` is the role of the byte received: returned to the host, or discarded (30_encoding.md R100). -/
  | xchg (out : Option Byte) (result : Bool)
  deriving DecidableEq, Repr

/-- Bytes of the slave's register space (20_memory.md R60), in canonical form: addresses strictly rising, no
entry equal to 0x00, which is what an unlisted address reads as (R80; log 14). -/
abbrev Memory := List Host.Cell

/-- The reference slave's state, 20_memory.md R80; `rx` holds the bits of the byte it is receiving (log 13). -/
structure RefSlave where
  sreg : Memory
  cmd : Option Byte
  idx : Nat
  addr : Byte
  mask : Byte
  rtsLog : List Byte
  rx : Byte
  deriving DecidableEq, Repr

/-- Which slave answers: the oracle under no law (20_memory.md R70), RefSlave (R80 to R86) or
RefSlaveStuck (R87) (log 3). -/
inductive SlaveKind where
  | oracle
  | reference
  | referenceStuck
  deriving DecidableEq, Repr

/-- What the world outside does next (log 1, log 2, log 18, log 20). -/
inductive Input where
  /-- The host presents a command word; it is taken when the port is open (30_encoding.md R91). -/
  | word (w : CmdWord)
  /-- The platform asserts `rst_n`; it acts at once (70_reset_and_hazards.md R250). -/
  | reset
  /-- From here on the shift engine takes `n` more steps, or every enabled step when `none` (40_transport.md R131). -/
  | sched (n : Option Nat)
  /-- The platform will assert `rst_n` in the command in progress, `n` moments from here (70_reset_and_hazards.md R250). -/
  | resetAfter (n : Nat)
  /-- The host makes step 4 of CAN_SET_LOOPBACK on the byte its F_READ returned (43_sequences.md R202). -/
  | checkLoopback
  deriving DecidableEq, Repr

/-- Reasons for a step to stop with a fault: none. Every behaviour the spec describes is a next state
(60_exceptions.md R220: no exception; R221: a hang is the absence of steps, modelled as a state that stays as it
is; 93_implementation_defined.md: the `fault`s of U1, U2, U5 have a defined wire effect and are recorded in
`breaches`). Raised by nobody: safe (log 17). -/
inductive Fault where
  deriving DecidableEq, Repr

/-- Reasons for a step to be refused by the model. -/
inductive Refusal where
  /-- An instruction of the table without a meaning yet, raised by its arm of `exec` alone: safe. No arm raises it. -/
  | notModelled (mnemonic : String)
  deriving DecidableEq, Repr

/-- The state. The first group is the record `S` of 10_state.md R21, in its order; the rest is the configuration
and the model's own fields for the agents outside the block. -/
structure State where
  /-- Serial peripheral enabled. -/
  en : Bool
  /-- Bus master. -/
  mstr : Bool
  /-- Bit order, 0 = most significant first. -/
  dord : Bool
  /-- SCK idle level. -/
  cpol : Bool
  /-- Data sampled on the trailing edge. -/
  cpha : Bool
  /-- Transfer-complete interrupt enable, hardwired 0: nothing writes it. -/
  ie : Bool
  /-- SCK rate selector. -/
  ckdiv : Nat
  /-- Level of the chip-select line, `none` = not driven (log 9). -/
  csN : Option Bool
  /-- Level of the clock line, `none` = not driven. -/
  sck : Option Bool
  /-- Level of the master-out line, `none` = not driven or no specified level. -/
  mosi : Option Bool
  /-- Shift register. -/
  sr : Byte
  /-- Bits of the current byte already sampled. -/
  bitcnt : BitVec 4
  /-- A byte transfer is in flight. -/
  busy : Bool
  /-- Transfer complete. -/
  tc : Bool
  /-- The byte received by the last completed transfer. -/
  data : Byte
  /-- The command in progress. -/
  fop : Fop
  /-- Transport primitives already issued. -/
  fidx : BitVec 4
  /-- Operand latches. -/
  opa : Byte
  opb : Byte
  opc : Byte
  /-- The response word being assembled. -/
  rsp : RespWord
  /-- Wire events, oldest first. -/
  trace : List Event
  /-- Diagnostic events, oldest first. -/
  diag : List DiagEvent
  /-- The configuration (00_scope.md R8, R9), written by nothing (log 6). -/
  cfg : Cfg
  /-- What the host and the platform do next, in order (log 1). -/
  inputs : List Input
  /-- Steps the shift engine still takes; `none` is EngineFair (40_transport.md R131; log 2). -/
  sched : Option Nat
  /-- Moments of commands in progress until the platform asserts `rst_n`; `none` when it does not (R250; log 20). -/
  resetIn : Option Nat
  /-- Which slave answers (log 3). -/
  slave : SlaveKind
  /-- The oracle's next answers; when none is left each is a free value (log 3). -/
  answers : List Bool
  /-- Free values taken so far (log 4). -/
  draws : Nat
  /-- The reference slave, consulted only when `slave` is one of its two kinds. -/
  ref : RefSlave
  /-- Contracts broken by the host, oldest first (log 11). -/
  breaches : List Breach
  /-- The host's `s` of step 3 of CAN_SET_LOOPBACK: the byte that its last F_READ of the mode-status register returned, `none`
  when that one has no response or was refused, and before the first (43_sequences.md R202; log 18). -/
  modeRead : Option Byte
  /-- The host's result of the last loopback verification; `none` before the first, and when its F_READ has not completed
  (43_sequences.md R202 case c; log 18). -/
  ok : Option Bool
  deriving DecidableEq, Repr

/-- The reference slave's initial state for the default addresses (20_memory.md R80). -/
def RefSlave.reset : RefSlave where
  sreg := [(0x0E, 0x80), (0x0F, 0x80)]
  cmd := none
  idx := 0
  addr := 0x00
  mask := 0x00
  rtsLog := []
  rx := 0x00

/-- The power-on state, 10_state.md R42. CKDIV, SR, DATA, OPA, OPB, OPC and RSP have no value there and hold 0
(DESIGN CHOICE, log 8); the three lines are not driven. The fields outside `S` are the model's own. -/
def State.reset : State where
  en := false
  mstr := false
  dord := false
  cpol := false
  cpha := false
  ie := false
  ckdiv := 0
  csN := none
  sck := none
  mosi := none
  sr := 0x00
  bitcnt := 0
  busy := false
  tc := false
  data := 0x00
  fop := .idle
  fidx := 0
  opa := 0x00
  opb := 0x00
  opc := 0x00
  rsp := 0x0000
  trace := []
  diag := []
  cfg := Cfg.default
  inputs := []
  sched := none
  resetIn := none
  slave := .oracle
  answers := []
  draws := 0
  ref := RefSlave.reset
  breaches := []
  modeRead := none
  ok := none

end Sys2Proof.Machine
end

