-- ==== Sys2Proof/Machine/Flags.lean ====
section
/-! DEFINITION. The two flags BUSY and TC (10_state.md R23) and every point that writes them. -/

namespace Sys2Proof.Machine

/-- A transfer starts: `BUSY <- 1; TC <- 0` (40_transport.md R125). -/
def flagsStart (s : State) : State := { s with busy := true, tc := false }

/-- The eighth bit is sampled: `BUSY <- 0; TC <- 1` (R128). -/
def flagsComplete (s : State) : State := { s with busy := false, tc := true }

/-- The waiting host takes the byte: `TC <- 0` (R129). -/
def flagsTaken (s : State) : State := { s with tc := false }

end Sys2Proof.Machine
end

