-- ==== Sys2Proof/Machine/Memory.lean ====
section
/-! DEFINITION. Memory: the slave's register space of 256 one-byte addresses (20_memory.md R60, R63, R64, R80) as
a list of cells in canonical form. -/

namespace Sys2Proof.Machine

/-- What an address that is not listed reads as (20_memory.md R80: every register of the reference slave starts as 0x00). -/
def Memory.unlisted : Byte := 0x00

/-- The byte at the key `k`. -/
def Memory.readAt : Memory → Nat → Byte
  | [], _ => Memory.unlisted
  | (j, v) :: t, k => if j = k then v else Memory.readAt t k

/-- Cells in canonical form with every key at least `lo`. -/
def Memory.wfFrom (lo : Nat) : Memory → Bool
  | [] => true
  | (j, v) :: t => decide (lo ≤ j) && decide (j < 256) && decide (v ≠ Memory.unlisted) && Memory.wfFrom (j + 1) t

/-- The canonical form: addresses below 256, strictly rising, no entry equal to what an unlisted address reads as. -/
def Memory.wf (m : Memory) : Bool := Memory.wfFrom 0 m

/-- The cell `(k, v)` put in front, unless it says what an unlisted address says. -/
def Memory.consCell (k : Nat) (v : Byte) (t : Memory) : Memory :=
  if v = Memory.unlisted then t else (k, v) :: t

/-- The cells with the byte at the key `k` made `v`, in canonical form again. -/
def Memory.writeAt : Memory → Nat → Byte → Memory
  | [], k, v => Memory.consCell k v []
  | (j, u) :: t, k, v =>
    if k < j then Memory.consCell k v ((j, u) :: t)
    else if k = j then Memory.consCell k v t
    else (j, u) :: Memory.writeAt t k v

/-- The register at address `a` (R60: an address is one opaque byte, every value is accepted, R64). -/
def Memory.read (m : Memory) (a : Byte) : Byte := Memory.readAt m a.toNat

/-- The registers with the one at address `a` holding `v`. -/
def Memory.write (m : Memory) (a v : Byte) : Memory := Memory.writeAt m a.toNat v

end Sys2Proof.Machine
end

