-- ==== Sys2Proof/Machine/Operands.lean ====
section
/-! DEFINITION. Every operand form: bytes taken as they are (30_encoding.md R93, R99), the selector forms of
F_RTS and F_RDRXB (R102, R103), the receive mask (00_scope.md R9), and the shift of a byte by one sample (40_transport.md R128). -/

namespace Sys2Proof.Machine

/-- `CMD_RTS(n)` of 30_encoding.md R102, one set bit at position `n`; `none` for a selector out of range, whose
byte is unspecified (41_frames.md R155, U3; log 5), and where the set bit leaves the byte, a byte the spec does not
state (DESIGN CHOICE, log 23). -/
def rtsByte (g : Cfg) (n : Byte) : Option Byte :=
  if n.toNat < g.N_TX_BUF ∧ n.toNat < 8 then some (g.CMD_RTS_BASE ||| BitVec.ofNat 8 (1 <<< n.toNat)) else none

/-- `CMD_RDRXB(b, d)` of 30_encoding.md R103; `none` for a selector out of range, whose byte is unspecified
(41_frames.md R157, U4; log 5), and where a shifted selector leaves the byte, a byte the spec does not state
(DESIGN CHOICE, log 23). -/
def rdrxbByte (g : Cfg) (b d : Byte) : Option Byte :=
  if b.toNat < g.N_RX_BUF ∧ d.toNat < 2 ∧ g.rdrxbInByte b.toNat d.toNat = true then
    some (g.CMD_RDRXB_BASE ||| BitVec.ofNat 8 (b.toNat <<< g.RDRXB_BUF_SHIFT)
      ||| BitVec.ofNat 8 (d.toNat <<< g.RDRXB_DATA_SHIFT))
  else none

/-- `RXIF_BIT(b)` of 00_scope.md R9; `none` where there is no buffer `b` (log 5). -/
def rxifBit (g : Cfg) (b : Byte) : Option Byte :=
  if b.toNat < g.N_RX_BUF then g.RXIF_BIT[b.toNat]? else none

/-- `v[6:0] ‖ m`: shift left by one, the sample enters at bit 0 (40_transport.md R128). -/
def shiftIn (v : Byte) (m : Bool) : Byte := v.extractLsb' 0 7 ++ BitVec.ofBool m

end Sys2Proof.Machine
end

