-- ==== Sys2Proof/Machine/Reference.lean ====
section
/-! DEFINITION. The reference slave of 20_memory.md R80 to R87, for tests: it works on whole bytes, fixing its reply
from its state before it receives the byte. It is not part of the hardware. -/

namespace Sys2Proof.Machine

/-- The initial state (20_memory.md R80): every register 0x00 but the two mode registers. -/
def refInit (g : Cfg) : RefSlave where
  sreg := Memory.write (Memory.write [] g.ADDR_CANCTRL g.MODE_CONFIG) g.ADDR_CANSTAT g.MODE_CONFIG
  cmd := none
  idx := 0
  addr := 0x00
  mask := 0x00
  rtsLog := []
  rx := 0x00

/-- `(old & ~mask) | (new & mask)`: the masked update of 20_memory.md R74, R82, R85, R86. -/
def maskedUpdate (old mask new : Byte) : Byte := (old &&& ~~~mask) ||| (new &&& mask)

/-- `RXB_ADDR(b, d)` of R83 (general knowledge in the spec, GK9). -/
def rxbAddr (b d : Nat) : Byte := BitVec.ofNat 8 (0x61 + 0x10 * b + 5 * d)

/-- The buffer and data selectors `(b, d)`, `b < 2`, `d < 2`, whose command byte of 30_encoding.md R103 is `o` (R83). -/
def rdrxbSelectors (g : Cfg) (o : Byte) : Option (Nat × Nat) :=
  [(0, 0), (0, 1), (1, 0), (1, 1)].find? (fun p =>
    decide (rdrxbByte g (BitVec.ofNat 8 p.1) (BitVec.ofNat 8 p.2) = some o))

/-- The transmit buffers whose request-to-send byte is `o` (R82): the least one, if any. -/
def rtsSelector (g : Cfg) (o : Byte) : Option Nat :=
  (List.range g.N_TX_BUF).find? (fun n => decide (n < 8 ∧ g.CMD_RTS_BASE ||| BitVec.ofNat 8 (1 <<< n) = o))

/-- The reply byte, fixed from the state and `idx` alone (R81 to R85). -/
def refReply (g : Cfg) (r : RefSlave) : Byte :=
  match r.idx, r.cmd with
  | 1, some o =>
    if o = g.CMD_READ ∨ o = g.CMD_WRITE ∨ o = g.CMD_BITMOD then 0x00
    else if o = g.CMD_RDSTAT then r.sreg.read g.ADDR_CANINTF &&& 0x03
    else match rdrxbSelectors g o with
      | some (b, d) => r.sreg.read (rxbAddr b d)
      | none => 0x00
  | 2, some o => if o = g.CMD_READ then r.sreg.read r.addr else 0x00
  | _, _ => 0x00

/-- The mode hook of R86: after a write to the mode-control register the mode-status register follows. -/
def refModeHook (g : Cfg) (r : RefSlave) : RefSlave :=
  if r.addr = g.ADDR_CANCTRL then
    let m := maskedUpdate (r.sreg.read g.ADDR_CANSTAT) g.MODE_MASK (r.sreg.read g.ADDR_CANCTRL)
    { r with sreg := r.sreg.write g.ADDR_CANSTAT m }
  else r

/-- A register write of the slave, with the hook of R86 unless it is the stuck variant (R87). -/
def refStore (g : Cfg) (stuck : Bool) (r : RefSlave) (v : Byte) : RefSlave :=
  let r' := { r with sreg := r.sreg.write r.addr v }
  if stuck then r' else refModeHook g r'

/-- The reset command: both mode registers take Configuration in their mode bits (R82). -/
def refResetMode (g : Cfg) (r : RefSlave) : RefSlave :=
  let forced := fun a => (r.sreg.read a &&& ~~~g.MODE_MASK) ||| g.MODE_CONFIG
  { r with sreg := (r.sreg.write g.ADDR_CANCTRL (forced g.ADDR_CANCTRL)).write g.ADDR_CANSTAT (forced g.ADDR_CANSTAT) }

/-- Byte 0 of a frame, the command byte (R82). -/
def refCommand (g : Cfg) (r : RefSlave) (o : Byte) : RefSlave :=
  let r1 := { r with cmd := some o }
  let r2 := if o = g.CMD_RESET then refResetMode g r1 else r1
  match rtsSelector g o with
  | some n => { r2 with rtsLog := r2.rtsLog ++ [BitVec.ofNat 8 n] }
  | none => r2

/-- What the slave does with byte `idx` of the frame, before it counts it (R82 to R85). -/
def refActs (g : Cfg) (stuck : Bool) (r : RefSlave) (o : Byte) : RefSlave :=
  match r.idx, r.cmd with
  | 0, _ => refCommand g r o
  | 1, some c => if c = g.CMD_READ ∨ c = g.CMD_WRITE ∨ c = g.CMD_BITMOD then { r with addr := o } else r
  | 2, some c =>
    if c = g.CMD_WRITE then refStore g stuck r o
    else if c = g.CMD_BITMOD then { r with mask := o } else r
  | 3, some c =>
    if c = g.CMD_BITMOD then refStore g stuck r (maskedUpdate (r.sreg.read r.addr) r.mask o) else r
  | _, _ => r

/-- The slave receives the whole byte `o` (R81). -/
def refReceive (g : Cfg) (stuck : Bool) (r : RefSlave) (o : Byte) : RefSlave :=
  let r' := refActs g stuck r o
  { r' with idx := r'.idx + 1 }

/-- On `CsFall`: `idx <- 0; cmd <- none` (R81). On `CsRise` nothing happens. -/
def refCsFall (r : RefSlave) : RefSlave := { r with idx := 0, cmd := none }

/-- The slave samples one MOSI level at a trailing edge; with the eighth bit of the byte it receives the byte
(R81, 40_transport.md R128; log 13). -/
def refClock (g : Cfg) (stuck : Bool) (r : RefSlave) (mosi last : Bool) : RefSlave :=
  let r' := { r with rx := shiftIn r.rx mosi }
  if last then refReceive g stuck r' r'.rx else r'

/-- Byte-level view of one frame after its `CsFall`: the replies to the bytes `outs` and the state after. -/
def refBytes (g : Cfg) (stuck : Bool) (r : RefSlave) : List Byte → List Byte × RefSlave
  | [] => ([], r)
  | o :: os =>
    let rest := refBytes g stuck (refReceive g stuck { r with rx := o } o) os
    (refReply g r :: rest.1, rest.2)

end Sys2Proof.Machine
end

