-- ==== Sys2Proof/Machine/Ops.lean ====
section
/-! DEFINITION. The named operations over the state: the trace and the lines, the edges of the shift engine, the command
port (acceptance, response, refusal), hardware reset and the host's loopback check. The block has no exception
(60_exceptions.md R220, R228, R229); `refuse` is the one shared operation that takes its place (30_encoding.md R96). -/

namespace Sys2Proof.Machine

/-- `emit e` (00_scope.md R11). -/
def emit (e : Event) (s : State) : State := { s with trace := s.trace ++ [e] }

/-- The slave sees CS_N fall; an oracle keeps no state here (20_memory.md R81). -/
def slaveCsFall (s : State) : State :=
  match s.slave with
  | .oracle => s
  | .reference | .referenceStuck => { s with ref := refCsFall s.ref }

/-- The transport's select_low (40_transport.md R123): an event only on a transition. -/
def selectLow (s : State) : State :=
  if s.csN = some true then slaveCsFall (emit .csFall { s with csN := some false }) else s

/-- The transport's select_high (R124). -/
def selectHigh (s : State) : State :=
  if s.csN = some false then emit .csRise { s with csN := some true } else s

/-- The level the master samples on MISO: the selected slave's answer, `draw 1` when none is selected
(40_transport.md R128, 20_memory.md R70, R71, R81). -/
def misoLevel (s : State) : Bool :=
  if s.csN = some false then
    match s.slave with
    | .oracle =>
      match s.answers with
      | m :: _ => m
      | [] => Config.misoSample s.draws
    | .reference | .referenceStuck => (refReply s.cfg s.ref).getLsbD (7 - s.bitcnt.toNat)
  else Config.drawBit s.draws

/-- What one sample changes outside the block: an answer or a draw is used up, and a selected reference slave
samples MOSI on the same edge (40_transport.md R128). -/
def slaveClock (s : State) : State :=
  if s.csN = some false then
    match s.slave with
    | .oracle =>
      match s.answers with
      | _ :: rest => { s with answers := rest }
      | [] => { s with draws := s.draws + 1 }
    | .reference => { s with ref := refClock s.cfg false s.ref (s.mosi.getD false) (decide (s.bitcnt = 7)) }
    | .referenceStuck => { s with ref := refClock s.cfg true s.ref (s.mosi.getD false) (decide (s.bitcnt = 7)) }
  else { s with draws := s.draws + 1 }

/-- XCHG start step (40_transport.md R125) with the byte to send; `none` is an unspecified byte, a free value.
Not enabled (`none`) unless `EN = 1`, `MSTR = 1` and `BUSY = 0`. -/
def startByte (out : Option Byte) (s : State) : Option State :=
  if s.en = true ∧ s.mstr = true ∧ s.busy = false then
    match out with
    | some o => some (flagsStart { s with sr := o, bitcnt := 0 })
    | none => some (flagsStart { s with sr := Config.drawByte s.draws, bitcnt := 0, draws := s.draws + 1 })
  else none

/-- Engine leading-edge step (R127). -/
def leadingEdge (s : State) : Option State :=
  if s.busy = true ∧ s.sck = some true ∧ s.bitcnt.toNat < 8 then
    some (emit (.sckFall (s.sr.getLsbD 7)) { s with sck := some false, mosi := some (s.sr.getLsbD 7) })
  else none

/-- The sample of a trailing edge taken into the block: shift, count, SCK to its idle level, the event (R128). -/
def takeSample (m : Bool) (s : State) : State :=
  emit (.sckRise m) { s with sck := some true, sr := shiftIn s.sr m, bitcnt := s.bitcnt + 1 }

/-- Engine trailing-edge step (R128). -/
def trailingEdge (s : State) : Option State :=
  if s.busy = true ∧ s.sck = some false then
    let t := takeSample (misoLevel s) (slaveClock s)
    some (if t.bitcnt = 8 then flagsComplete { t with data := t.sr } else t)
  else none

/-- The engine's step: at each moment at most one of the two edges is enabled (R130). -/
def engineStep (s : State) : Option State :=
  match leadingEdge s with
  | some t => some t
  | none => trailingEdge s

/-- The response word with `ERR = 0` (30_encoding.md R95). -/
def okWord (d : RespData) : RespWord := (0#6) ++ d

/-- A byte zero-extended into the field DATA (R95). -/
def zextData (v : Byte) : RespData := v.setWidth 10

/-- The byte of an exchange inside a frame is taken (40_transport.md R129), after `TC = 1`; where its role is the
result it goes into the response word being assembled (10_state.md R31; log 10). -/
def takeByte (result : Bool) (s : State) : State :=
  flagsTaken (if result then { s with rsp := okWord (zextData s.data) } else s)

/-- The command `f` with operand `a` is step 3 of CAN_SET_LOOPBACK, an F_READ of the mode-status register (43_sequences.md
R202; log 18). -/
abbrev ReadsMode (g : Cfg) (f : Fop) (a : Byte) : Prop := f = .fRead ∧ a = g.ADDR_CANSTAT

/-- Acceptance of a command (30_encoding.md R91): the latches, `FOP` and `FIDX`. A read of the mode has returned nothing yet. -/
def accept (f : Fop) (a b c : Byte) (s : State) : State :=
  { s with
    opa := a
    opb := b
    opc := c
    fop := f
    fidx := 0
    modeRead := if ReadsMode s.cfg f a then none else s.modeRead }

/-- `respond ERR = 0, DATA = d` (30_encoding.md R91, R95): the command ends. -/
def respond (d : RespData) (s : State) : State := { s with rsp := okWord d, fop := .idle, fidx := 0 }

/-- `refuse` (30_encoding.md R96, 60_exceptions.md R225): the command ends with `RW = 0x8000` and no other effect. -/
def refuse (s : State) : State := { s with rsp := 0x8000, fop := .idle, fidx := 0 }

/-- A word whose `OP` is in no row: latched and refused, `IllegalOp` (R91, R96, R98). -/
def illegalWord (w : CmdWord) (s : State) : State :=
  refuse { s with opa := fieldA w, opb := fieldB w, opc := fieldC w }

/-- The bracket contract (70_reset_and_hazards.md R256) for the command `f` accepted with chip-select at `l`;
SPI_INIT breaks it only when a frame was left open (40_transport.md R121 case c; U5; log 11). -/
def bracketKept (f : Fop) (l : Option Bool) : Bool :=
  match f with
  | .spiInit => decide (l ≠ some false)
  | .csLow => decide (l = some true)
  | .csHigh | .xchg => decide (l = some false)
  | .fReset | .fRead | .fWrite | .fBitmod | .fRts | .fRdstat | .fRdrxb => decide (l = some true)
  | .idle | .btTq | .btSeglen | .btPack1 | .btPack2 | .btPack3 | .btNbt => true

/-- The breach of the command just accepted is recorded; nothing else changes (93_implementation_defined.md U1, U2, U5). -/
def noteBreach (s : State) : State :=
  if bracketKept s.fop s.csN = true then s else { s with breaches := s.breaches ++ [.bracket s.fop] }

/-- A transport or frame command needs `EN = 1`, else it is refused, `NotInitialised` (30_encoding.md R97). -/
def whenEnabled (body : State → State) (s : State) : State :=
  if s.en = true then body (noteBreach s) else refuse s

/-- The command port (R91): the command is accepted and its body run when the port is open; a closed port accepts
nothing (log 19). -/
def issue (f : Fop) (a b c : Byte) (body : State → State) (s : State) :
    Host.Outcome State Fault Refusal :=
  .next (if s.fop = .idle then body (accept f a b c s) else s)

/-- Hardware reset (70_reset_and_hazards.md R250, R252): every element of `S` takes its reset value, but the
observer's TRACE and DIAG are kept, and `Released` is appended if the lines were driven. Nothing outside the block
changes (log 20). -/
def hardReset (s : State) : State :=
  { State.reset with
    trace := if s.en = true then s.trace ++ [.released] else s.trace
    diag := s.diag
    cfg := s.cfg
    inputs := s.inputs
    sched := s.sched
    resetIn := s.resetIn
    slave := s.slave
    answers := s.answers
    draws := s.draws
    ref := s.ref
    breaches := s.breaches
    modeRead := s.modeRead
    ok := s.ok }

/-- `diag e`: appended only when diagnostics are built in (10_state.md R41, 60_exceptions.md R224). -/
def diagnose (e : DiagEvent) (s : State) : State :=
  if s.cfg.DIAG_ENABLED = true then { s with diag := s.diag ++ [e] } else s

/-- Step 4 of CAN_SET_LOOPBACK (43_sequences.md R202): the mode bits of the byte read are compared with Loopback. Without a
completed F_READ there is no result and nothing is reported (R202 case c, 60_exceptions.md R227). -/
def checkLoopback (s : State) : State :=
  match s.modeRead with
  | none => { s with ok := none }
  | some v =>
    let observed := v &&& s.cfg.MODE_MASK
    if observed = s.cfg.MODE_LOOPBACK then { s with ok := some true }
    else diagnose (.verificationFailure s.cfg.MODE_LOOPBACK observed) { s with ok := some false }

end Sys2Proof.Machine
end

