-- ==== Sys2Proof/Machine/BitTiming.lean ====
section
/-! DEFINITION. The bit-timing calculator (42_bittiming.md): the six commands, and the spec-level functions of R186,
R188, R189 and R190, which are no commands. All arithmetic is unsigned and exact (R192). -/

namespace Sys2Proof.Machine

/-- `zext_10` of an operand (R192). -/
def zext10 (v : Byte) : RespData := v.setWidth 10

/-- `2 * (brp + 1)` oscillator periods (R181). -/
def btTq (brp : Byte) : RespData := 2 * (zext10 brp + 1)

/-- `field + 1` time quanta (R182). -/
def btSeglen (field : Byte) : RespData := zext10 field + 1

/-- The byte of the first bit-timing register: `brp` itself (R183). -/
def btPack1 (brp : Byte) : Byte := brp

/-- The byte of the combined register: the shift without loss, then cut to 8 bits (R184). -/
def btPack2 (g : Cfg) (prop ps1 : Byte) : Byte := BitVec.ofNat 8 (prop.toNat ||| (ps1.toNat <<< g.PS1_SHIFT))

/-- The byte of the third bit-timing register: `ps2` itself (R185). -/
def btPack3 (ps2 : Byte) : Byte := ps2

/-- The time quanta of one bus bit (R187); a SYNC_TQ above 255 is cut to the 10 bits of DATA (log 15). -/
def btNbt (g : Cfg) (prop ps1 ps2 : Byte) : RespData :=
  BitVec.ofNat 10 g.SYNC_TQ + (zext10 prop + 1) + (zext10 ps1 + 1) + (zext10 ps2 + 1)

/-- BT_TQ (R181). -/
def execBtTq (a b c : Byte) (s : State) : Host.Outcome State Fault Refusal :=
  issue .btTq a b c (fun t => respond (btTq t.opa) t) s

/-- BT_SEGLEN (R182). -/
def execBtSeglen (a b c : Byte) (s : State) : Host.Outcome State Fault Refusal :=
  issue .btSeglen a b c (fun t => respond (btSeglen t.opa) t) s

/-- BT_PACK1 (R183). -/
def execBtPack1 (a b c : Byte) (s : State) : Host.Outcome State Fault Refusal :=
  issue .btPack1 a b c (fun t => respond (zext10 (btPack1 t.opa)) t) s

/-- BT_PACK2 (R184). -/
def execBtPack2 (a b c : Byte) (s : State) : Host.Outcome State Fault Refusal :=
  issue .btPack2 a b c (fun t => respond (zext10 (btPack2 t.cfg t.opa t.opb)) t) s

/-- BT_PACK3 (R185). -/
def execBtPack3 (a b c : Byte) (s : State) : Host.Outcome State Fault Refusal :=
  issue .btPack3 a b c (fun t => respond (zext10 (btPack3 t.opa)) t) s

/-- BT_NBT (R187). -/
def execBtNbt (a b c : Byte) (s : State) : Host.Outcome State Fault Refusal :=
  issue .btNbt a b c (fun t => respond (btNbt t.cfg t.opa t.opb t.opc) t) s

/-- `BT_FITS` of R186: every field fits its width. Checked by nothing; a premise of claims about the bus speed. -/
def btFits (g : Cfg) (brp prop ps1 ps2 : Byte) : Bool :=
  decide (brp.toNat < 2 ^ g.W_BRP) && decide (prop.toNat < 2 ^ g.W_PROP) && decide (ps1.toNat < 2 ^ g.W_PS1)
    && decide (ps2.toNat < 2 ^ g.W_PS2)

/-- The time quantum in seconds, an exact rational (R188). -/
def tqSeconds (g : Cfg) (brp : Byte) : Rat := ((2 * (brp.toNat + 1) : Nat) : Rat) / (g.F_OSC_HZ : Rat)

/-- The bit time in seconds (R188). -/
def bitTimeSeconds (g : Cfg) (brp prop ps1 ps2 : Byte) : Rat :=
  (((btNbt g prop ps1 ps2).toNat : Nat) : Rat) * tqSeconds g brp

/-- The bit rate in bits per second (R188). -/
def bitRate (g : Cfg) (brp prop ps1 ps2 : Byte) : Rat :=
  (g.F_OSC_HZ : Rat) / ((2 * (brp.toNat + 1) * (btNbt g prop ps1 ps2).toNat : Nat) : Rat)

/-- `BT_BRP_FOR` of R189: the prescaler field whose time quantum is `tq` seconds, where there is one. -/
def btBrpFor (g : Cfg) (tq : Rat) : Option Nat :=
  let periods := tq * (g.F_OSC_HZ : Rat)
  if periods.den = 1 ∧ 2 ≤ periods.num ∧ periods.num % 2 = 0 ∧ periods.num.toNat / 2 - 1 < 2 ^ g.W_BRP then
    some (periods.num.toNat / 2 - 1)
  else none

/-- The fields read back from the three packed bytes (R190): prescaler, propagation segment, phase segments 1 and 2. -/
def btUnpack (p1 p2 p3 : Byte) : BitVec 6 × BitVec 3 × BitVec 3 × BitVec 3 :=
  (p1.extractLsb' 0 6, p2.extractLsb' 0 3, p2.extractLsb' 3 3, p3.extractLsb' 0 3)

end Sys2Proof.Machine
end

