-- ==== Sys2Proof/Machine/Sequencer.lean ====
section
/-! DEFINITION. The frame sequencer (41_frames.md R150): each command that uses the shift engine is a fixed list of
transport primitives, executed one small step at a time. The engine's steps may stay away for ever, and the command with
them (40_transport.md R131, 41_frames.md R160; log 2); the host's steps do not; a reset may come between any two
(log 12, log 20). -/

namespace Sys2Proof.Machine

/-- `Frame` of 41_frames.md R150: CS_LOW, one XCHG for each byte (with the role of the byte received), CS_HIGH. -/
def frame (bytes : List (Option Byte × Bool)) : List Prim :=
  .csLow :: (bytes.map (fun p => Prim.xchg p.1 p.2) ++ [.csHigh])

/-- XCHG (40_transport.md R122): the byte received is the result. -/
def xchgScript (s : State) : List Prim := [.xchg (some s.opa) true]

/-- F_RESET (41_frames.md R151): one byte. The settle wait after it changes nothing and stands between the last
primitive and the response (log 16). -/
def fResetScript (s : State) : List Prim := frame [(some s.cfg.CMD_RESET, false)]

/-- F_READ (R152): command byte, address, dummy byte whose reply is the result. -/
def fReadScript (s : State) : List Prim :=
  frame [(some s.cfg.CMD_READ, false), (some s.opa, false), (some s.cfg.DUMMY, true)]

/-- F_WRITE (R153): command byte, address, value. -/
def fWriteScript (s : State) : List Prim :=
  frame [(some s.cfg.CMD_WRITE, false), (some s.opa, false), (some s.opb, false)]

/-- F_BITMOD (R154): command byte, address, mask, value. -/
def fBitmodScript (s : State) : List Prim :=
  frame [(some s.cfg.CMD_BITMOD, false), (some s.opa, false), (some s.opb, false), (some s.opc, false)]

/-- F_RTS (R155): the selector's command byte; out of range an unspecified byte (log 5). -/
def fRtsScript (s : State) : List Prim := frame [(rtsByte s.cfg s.opa, false)]

/-- F_RDSTAT (R156): command byte, dummy byte whose reply is the result. -/
def fRdstatScript (s : State) : List Prim :=
  frame [(some s.cfg.CMD_RDSTAT, false), (some s.cfg.DUMMY, true)]

/-- F_RDRXB (R157): the shortcut frame, whose second reply is the result, then the bit-modify frame that clears
the buffer's flag (log 5 for selectors out of range). -/
def fRdrxbScript (s : State) : List Prim :=
  frame [(rdrxbByte s.cfg s.opa s.opb, false), (some s.cfg.DUMMY, true)]
    ++ frame [(some s.cfg.CMD_BITMOD, false), (some s.cfg.ADDR_CANINTF, false), (rxifBit s.cfg s.opa, false),
        (some 0x00, false)]

/-- The primitives of the command in progress; the other commands have none. -/
def script (s : State) : List Prim :=
  match s.fop with
  | .xchg => xchgScript s
  | .fReset => fResetScript s
  | .fRead => fReadScript s
  | .fWrite => fWriteScript s
  | .fBitmod => fBitmodScript s
  | .fRts => fRtsScript s
  | .fRdstat => fRdstatScript s
  | .fRdrxb => fRdrxbScript s
  | .idle | .spiInit | .csLow | .csHigh | .btTq | .btSeglen | .btPack1 | .btPack2 | .btPack3 | .btNbt => []

/-- Whether the command's response carries a byte received (30_encoding.md R94). -/
def hasResult (f : Fop) : Bool :=
  match f with
  | .xchg | .fRead | .fRdstat | .fRdrxb => true
  | .idle | .spiInit | .csLow | .csHigh | .fReset | .fWrite | .fBitmod | .fRts
  | .btTq | .btSeglen | .btPack1 | .btPack2 | .btPack3 | .btNbt => false

/-- The primitive the command in progress stands at. -/
def currentPrim (s : State) : Option Prim := (script s)[s.fidx.toNat]?

/-- `FIDX` is incremented after each primitive (41_frames.md R150). -/
def nextPrim (s : State) : State := { s with fidx := s.fidx + 1 }

/-- The host takes the byte of a read of the mode that has completed (43_sequences.md R202 step 3; log 18). -/
def noteMode (s : State) : State :=
  { s with modeRead := if ReadsMode s.cfg s.fop s.opa then some (s.rsp.setWidth 8) else s.modeRead }

/-- The response at the end of the primitives: the byte assembled, or 0 (30_encoding.md R95). -/
def respondEnd (s : State) : State :=
  respond (if hasResult s.fop = true then s.rsp.setWidth 10 else 0) (noteMode s)

/-- XCHG finish step (40_transport.md R129): the command XCHG responds in it; inside a frame the sequencer takes the
byte and goes on. -/
def finishByte (result : Bool) (s : State) : State :=
  if s.fop = .xchg then respond (zextData s.data) (flagsTaken s) else nextPrim (takeByte result s)

/-- One scheduled step of the engine is used up. -/
def spend (s : State) : State := { s with sched := s.sched.map (· - 1) }

/-- The engine's step, if it takes one: it has no obligation to (40_transport.md R131; log 2). -/
def scheduledStep (s : State) : Option State :=
  if s.sched = some 0 then none else (engineStep s).map spend

/-- The next step of an XCHG: finish when the transfer is complete (40_transport.md R129), an engine step while one
is in flight (R127, R128), else the start step (R125). `none`: no step is taken. -/
def xchgStep (out : Option Byte) (result : Bool) (s : State) : Option State :=
  if s.tc = true then some (finishByte result s)
  else if s.busy = true then scheduledStep s
  else startByte out s

/-- The next small step of the command in progress. -/
def smallStep (s : State) : Option State :=
  match currentPrim s with
  | some .csLow => some (nextPrim (selectLow s))
  | some .csHigh => some (nextPrim (selectHigh s))
  | some (.xchg out result) => xchgStep out result s
  | none => some (respondEnd s)

/-- The platform's reset comes one moment nearer (70_reset_and_hazards.md R250). -/
def countDown (s : State) : State := { s with resetIn := s.resetIn.map (· - 1) }

/-- What a moment does to the command in progress: its next small step, or nothing when the engine stays away. -/
def advance (s : State) : State :=
  match smallStep s with
  | some t => t
  | none => s

/-- One moment: with a command in progress the platform's reset if it is due, else the command's next small step. -/
def tick (s : State) : State :=
  if s.fop = .idle then s
  else if s.resetIn = some 0 then hardReset { s with resetIn := none }
  else advance (countDown s)

/-- `n` moments. -/
def runFor : Nat → State → State
  | 0, s => s
  | n + 1, s => runFor n (tick s)

/-- More small steps than any command has: F_RDRXB has 113 (ten primitives, six of them of eighteen steps, and the response). -/
def longest : Nat := 128

/-- The command in progress runs as far as the engine takes its steps; with EngineFair and no reset, to its response. -/
def resume (s : State) : State := runFor longest s

end Sys2Proof.Machine
end

