-- ==== Sys2Proof/Machine/Frames.lean ====
section
/-! DEFINITION. The meanings of the frame commands (41_frames.md R151 to R157): the primitives of each stand in
Sequencer.lean, and each runs as far as the engine takes its steps. -/

namespace Sys2Proof.Machine

/-- F_RESET (41_frames.md R151). -/
def execFReset (a b c : Byte) (s : State) : Host.Outcome State Fault Refusal :=
  issue .fReset a b c (whenEnabled resume) s

/-- F_READ (R152). -/
def execFRead (a b c : Byte) (s : State) : Host.Outcome State Fault Refusal :=
  issue .fRead a b c (whenEnabled resume) s

/-- F_WRITE (R153). -/
def execFWrite (a b c : Byte) (s : State) : Host.Outcome State Fault Refusal :=
  issue .fWrite a b c (whenEnabled resume) s

/-- F_BITMOD (R154). -/
def execFBitmod (a b c : Byte) (s : State) : Host.Outcome State Fault Refusal :=
  issue .fBitmod a b c (whenEnabled resume) s

/-- F_RTS (R155). -/
def execFRts (a b c : Byte) (s : State) : Host.Outcome State Fault Refusal :=
  issue .fRts a b c (whenEnabled resume) s

/-- F_RDSTAT (R156). -/
def execFRdstat (a b c : Byte) (s : State) : Host.Outcome State Fault Refusal :=
  issue .fRdstat a b c (whenEnabled resume) s

/-- F_RDRXB (R157). -/
def execFRdrxb (a b c : Byte) (s : State) : Host.Outcome State Fault Refusal :=
  issue .fRdrxb a b c (whenEnabled resume) s

end Sys2Proof.Machine
end

