-- ==== Sys2Proof/Machine/Transport.lean ====
section
/-! DEFINITION. The meanings of the serial transport's commands (40_transport.md R121 to R129). -/

namespace Sys2Proof.Machine

/-- The effect of SPI_INIT on the control fields and the lines (40_transport.md R121). -/
def initSpi (s : State) : State :=
  let t :=
    { s with
      en := true
      mstr := true
      dord := false
      cpol := true
      cpha := true
      ckdiv := s.cfg.SCK_DIV
      bitcnt := 0
      sck := some true }
  let u := if t.csN = some false then emit .csRise t else t
  { u with csN := some true }

/-- SPI_INIT (40_transport.md R121): needs no `EN = 1`, always succeeds. -/
def execSpiInit (a b c : Byte) (s : State) : Host.Outcome State Fault Refusal :=
  issue .spiInit a b c (fun t => respond 0 (initSpi (noteBreach t))) s

/-- CS_LOW (R123). -/
def execCsLow (a b c : Byte) (s : State) : Host.Outcome State Fault Refusal :=
  issue .csLow a b c (whenEnabled (fun t => respond 0 (selectLow t))) s

/-- CS_HIGH (R124). -/
def execCsHigh (a b c : Byte) (s : State) : Host.Outcome State Fault Refusal :=
  issue .csHigh a b c (whenEnabled (fun t => respond 0 (selectHigh t))) s

/-- XCHG (R122): start, sixteen engine steps as far as the engine takes them, finish and response. -/
def execXchg (a b c : Byte) (s : State) : Host.Outcome State Fault Refusal :=
  issue .xchg a b c (whenEnabled resume) s

end Sys2Proof.Machine
end

