-- ==== Sys2Proof/Machine/Dispatch.lean ====
section
/-! DEFINITION. One arm for each constructor of Instr, each one direct call of its meaning. -/

namespace Sys2Proof.Machine

def exec (i : Instr) (s : State) : Host.Outcome State Fault Refusal :=
  match i with
  -- the serial transport (40_transport.md)
  | .spiInit a b c => Sys2Proof.Machine.execSpiInit a b c s
  | .csLow a b c => Sys2Proof.Machine.execCsLow a b c s
  | .csHigh a b c => Sys2Proof.Machine.execCsHigh a b c s
  | .xchg a b c => Sys2Proof.Machine.execXchg a b c s
  -- the frame commands (41_frames.md)
  | .fReset a b c => Sys2Proof.Machine.execFReset a b c s
  | .fRead a b c => Sys2Proof.Machine.execFRead a b c s
  | .fWrite a b c => Sys2Proof.Machine.execFWrite a b c s
  | .fBitmod a b c => Sys2Proof.Machine.execFBitmod a b c s
  | .fRts a b c => Sys2Proof.Machine.execFRts a b c s
  | .fRdstat a b c => Sys2Proof.Machine.execFRdstat a b c s
  | .fRdrxb a b c => Sys2Proof.Machine.execFRdrxb a b c s
  -- the bit-timing calculator (42_bittiming.md)
  | .btTq a b c => Sys2Proof.Machine.execBtTq a b c s
  | .btSeglen a b c => Sys2Proof.Machine.execBtSeglen a b c s
  | .btPack1 a b c => Sys2Proof.Machine.execBtPack1 a b c s
  | .btPack2 a b c => Sys2Proof.Machine.execBtPack2 a b c s
  | .btPack3 a b c => Sys2Proof.Machine.execBtPack3 a b c s
  | .btNbt a b c => Sys2Proof.Machine.execBtNbt a b c s

end Sys2Proof.Machine
end

