-- ==== Sys2Proof/Machine/Step.lean ====
section
/-! DEFINITION. One step of the machine: the world outside acts, or the command in progress goes on. -/

namespace Sys2Proof.Machine

/-- One step. A word at the head of the inputs is taken when the port is open (30_encoding.md R91), decoded, and run
or refused with `IllegalOp` (R98, 60_exceptions.md R227); a reset acts at once (70_reset_and_hazards.md R250); while the
port is closed, and where no input stands, the command in progress goes on as far as the engine takes its steps (40_transport.md
R131). -/
def step (s : State) : Host.Outcome State Fault Refusal :=
  match s.inputs with
  | [] => .next (resume s)
  | .reset :: rest => .next (hardReset { s with inputs := rest })
  | .sched n :: rest => .next (resume { s with inputs := rest, sched := n })
  | .resetAfter n :: rest => .next (resume { s with inputs := rest, resetIn := some n })
  | .checkLoopback :: rest =>
    if s.fop = .idle then .next (checkLoopback { s with inputs := rest }) else .next (resume s)
  | .word w :: rest =>
    if s.fop = .idle then
      match decode w with
      | .ok i => exec i { s with inputs := rest }
      | .error _ => .next (illegalWord w { s with inputs := rest })
    else .next (resume s)

/-- `s` with the command word `w` standing where the next step takes its word: first among the inputs, the port
open. `nbits` is the width the table gives; above it the word is zero (log 1). -/
def State.withFetchWord (s : State) (nbits w : Nat) : State :=
  { s with inputs := .word (BitVec.ofNat 32 (w % 2 ^ nbits)) :: s.inputs, fop := .idle }

end Sys2Proof.Machine
end

