-- ==== Sys2Proof/Machine/Sequences.lean ====
section
/-! DEFINITION. The composite sequences of the command layer as what the host does, one input for each command
(43_sequences.md R200 to R203; 30_encoding.md R107). They are host software and have no command word. -/

namespace Sys2Proof.Machine

/-- The input that issues the command `i` (30_encoding.md R106). -/
def issueWord (i : Instr) : Input := .word (encode i)

/-- `CAN_SET_MODE m` (43_sequences.md R201). -/
def canSetMode (g : Cfg) (m : Byte) : List Input := [issueWord (.fBitmod g.ADDR_CANCTRL g.MODE_MASK m)]

/-- `CAN_INIT` (R200). -/
def canInit (g : Cfg) : List Input :=
  [ issueWord (.fReset 0 0 0),
    issueWord (.fWrite g.ADDR_CNF1 (btPack1 g.BT_BRP) 0),
    issueWord (.fWrite g.ADDR_CNF2 (btPack2 g g.BT_PROP g.BT_PS1) 0),
    issueWord (.fWrite g.ADDR_CNF3 (btPack3 g.BT_PS2) 0),
    issueWord (.fBitmod g.ADDR_RXB0CTRL g.RXM_BYPASS_MASK g.RXM_BYPASS_MASK),
    issueWord (.fBitmod g.ADDR_RXB1CTRL g.RXM_BYPASS_MASK g.RXM_BYPASS_MASK) ]
    ++ canSetMode g g.MODE_NORMAL

/-- `CAN_SET_LOOPBACK` (R202): both mode requests, the read-back, and the comparison. -/
def canSetLoopback (g : Cfg) : List Input :=
  canSetMode g g.MODE_CONFIG ++ canSetMode g g.MODE_LOOPBACK
    ++ [issueWord (.fRead g.ADDR_CANSTAT 0 0), .checkLoopback]

/-- The boot order of 70_reset_and_hazards.md R253: the transport first, then the controller. -/
def bootOrder (g : Cfg) : List Input := issueWord (.spiInit 0 0 0) :: canInit g

end Sys2Proof.Machine
end

