-- ==== Sys2Proof/Safety.lean ====
section
/-! DEFINITION. What claims are stated in: the wire waveform, the conditions under which a command completes, the
invariants, and the named premises on a slave (20_memory.md R74). -/

namespace Sys2Proof.Machine

/-- The bits of a byte in the order of the wire, bit 7 first (20_memory.md R62). -/
def byteBits (v : Byte) : List Bool := [7, 6, 5, 4, 3, 2, 1, 0].map (fun k => v.getLsbD k)

/-- `Byte(o, i)` of 00_scope.md R12: sixteen events. -/
def byteEvents (o i : Byte) : List Event :=
  [7, 6, 5, 4, 3, 2, 1, 0].flatMap (fun k => [.sckFall (o.getLsbD k), .sckRise (i.getLsbD k)])

/-- The events of the exchanges of the bytes `outs`, answered with `ins`. -/
def exchangeEvents (outs ins : List Byte) : List Event :=
  (outs.zip ins).flatMap (fun p => byteEvents p.1 p.2)

/-- The events of a frame: `CsFall Byte(..) ... Byte(..) CsRise` (00_scope.md R12). -/
def frameEvents (outs ins : List Byte) : List Event :=
  .csFall :: (exchangeEvents outs ins ++ [.csRise])

/-- The next `n` samples of the oracle and what is left of it: its given answers, then free values (20_memory.md R70). -/
def oracleSamples : Nat → List Bool → Nat → List Bool × List Bool × Nat
  | 0, ans, d => ([], ans, d)
  | n + 1, m :: ans, d =>
    let r := oracleSamples n ans d
    (m :: r.1, r.2)
  | n + 1, [], d =>
    let r := oracleSamples n [] (d + 1)
    (Config.misoSample d :: r.1, r.2)

/-- The block is as SPI_INIT leaves it between commands (10_state.md R44, 40_transport.md R120): the port is open, the block
enabled as master, no transfer in flight, the clock at its idle level. -/
abbrev Idling (s : State) : Prop :=
  s.fop = .idle ∧ s.en = true ∧ s.mstr = true ∧ s.busy = false ∧ s.tc = false ∧ s.sck = some true

/-- The premise `EngineFair` of 40_transport.md R131: every enabled step of the engine is taken (log 2). -/
abbrev EngineFair (s : State) : Prop := s.sched = none

/-- `Idling` and `EngineFair`, and the platform asserts no reset in the command (log 20). -/
abbrev Ready (s : State) : Prop := Idling s ∧ EngineFair s ∧ s.resetIn = none

/-- The slave's part of a run over the bytes `outs` with the slave selected throughout and no fall of chip-select in
between: the bytes `ins` come from the slave that `s` names, and `t` holds what is left of it (20_memory.md R70, R81). -/
def SlaveBytes (s t : State) (outs ins : List Byte) : Prop :=
  match s.slave with
  | .oracle =>
    (ins.flatMap byteBits, t.answers, t.draws) = oracleSamples (8 * outs.length) s.answers s.draws ∧ t.ref = s.ref
  | .reference => (ins, t.ref) = refBytes s.cfg false s.ref outs ∧ t.answers = s.answers ∧ t.draws = s.draws
  | .referenceStuck => (ins, t.ref) = refBytes s.cfg true s.ref outs ∧ t.answers = s.answers ∧ t.draws = s.draws

/-- The slave's part of one whole frame over the bytes `outs`: as `SlaveBytes`, after the fall of chip-select, which the
slave sees (20_memory.md R81). -/
def SlaveAnswered (s t : State) (outs ins : List Byte) : Prop := SlaveBytes (slaveCsFall s) t outs ins

/-- With no slave selected every sample of the byte `i` is a draw, and the slave sees nothing (20_memory.md R71, R81). -/
def NobodyAnswered (s t : State) (i : Byte) : Prop :=
  byteBits i = (List.range 8).map (fun j => Config.drawBit (s.draws + j))
    ∧ t.answers = s.answers ∧ t.draws = s.draws + 8 ∧ t.ref = s.ref

/-- What a frame command that completes leaves (41_frames.md R150, R158): the operand latches, the shift engine at rest
after its last byte, the frame's events, the response, the slave's part; and nothing else changed. `evs` are the events. -/
def FrameDone (s t : State) (a b c : Byte) (evs : List Event) (oLast iLast : Byte) (rsp : RespWord) : Prop :=
  t = { s with
    opa := a
    opb := b
    opc := c
    sr := iLast
    data := iLast
    bitcnt := 8
    mosi := some (oLast.getLsbD 0)
    csN := some true
    rsp := rsp
    fidx := 0
    trace := s.trace ++ evs
    answers := t.answers
    draws := t.draws
    ref := t.ref
    breaches := t.breaches }

/-- The state a refused command leaves (30_encoding.md R96): the latches, the response, and nothing else. -/
def refusedState (s : State) (a b c : Byte) : State :=
  { s with
    opa := a
    opb := b
    opc := c
    fop := .idle
    fidx := 0
    rsp := 0x8000 }

/-- The mnemonic of a command, as `FOP` holds it. -/
def fopOf : Instr → Fop
  | .spiInit _ _ _ => .spiInit
  | .csLow _ _ _ => .csLow
  | .csHigh _ _ _ => .csHigh
  | .xchg _ _ _ => .xchg
  | .fReset _ _ _ => .fReset
  | .fRead _ _ _ => .fRead
  | .fWrite _ _ _ => .fWrite
  | .fBitmod _ _ _ => .fBitmod
  | .fRts _ _ _ => .fRts
  | .fRdstat _ _ _ => .fRdstat
  | .fRdrxb _ _ _ => .fRdrxb
  | .btTq _ _ _ => .btTq
  | .btSeglen _ _ _ => .btSeglen
  | .btPack1 _ _ _ => .btPack1
  | .btPack2 _ _ _ => .btPack2
  | .btPack3 _ _ _ => .btPack3
  | .btNbt _ _ _ => .btNbt

/-- The commands that need `EN = 1`: `OP` in 0x01 to 0x03 or 0x10 to 0x16 (30_encoding.md R97). -/
def needsEnable (i : Instr) : Bool :=
  (decide (0x01 ≤ i.op.toNat) && decide (i.op.toNat ≤ 0x03))
    || (decide (0x10 ≤ i.op.toNat) && decide (i.op.toNat ≤ 0x16))

/-- The calculator's commands (42_bittiming.md). -/
def isCalculator (i : Instr) : Bool := decide (0x20 ≤ i.op.toNat)

/-- The lengths of the frames of a command, in order (30_encoding.md R100); none for a command that is no frame command. -/
def frameLengths : Instr → List Nat
  | .fReset _ _ _ => [1]
  | .fRead _ _ _ => [3]
  | .fWrite _ _ _ => [3]
  | .fBitmod _ _ _ => [4]
  | .fRts _ _ _ => [1]
  | .fRdstat _ _ _ => [2]
  | .fRdrxb _ _ _ => [2, 4]
  | .spiInit _ _ _ | .csLow _ _ _ | .csHigh _ _ _ | .xchg _ _ _ | .btTq _ _ _ | .btSeglen _ _ _
  | .btPack1 _ _ _ | .btPack2 _ _ _ | .btPack3 _ _ _ | .btNbt _ _ _ => []

/-- The bytes of the frames of a frame command, frame by frame (30_encoding.md R100); none for a command that is no frame
command, and where the spec states no byte for a selector (41_frames.md R155, R157; log 5, log 23). -/
def framesOf (g : Cfg) : Instr → Option (List (List Byte))
  | .fReset _ _ _ => some [[g.CMD_RESET]]
  | .fRead a _ _ => some [[g.CMD_READ, a, g.DUMMY]]
  | .fWrite a b _ => some [[g.CMD_WRITE, a, b]]
  | .fBitmod a b c => some [[g.CMD_BITMOD, a, b, c]]
  | .fRts a _ _ =>
    if a.toNat < g.N_TX_BUF ∧ a.toNat < 8 then some [[g.CMD_RTS_BASE ||| BitVec.ofNat 8 (2 ^ a.toNat)]] else none
  | .fRdstat _ _ _ => some [[g.CMD_RDSTAT, g.DUMMY]]
  | .fRdrxb a b _ =>
    if a.toNat < g.N_RX_BUF ∧ b.toNat < 2 ∧ a.toNat * 2 ^ g.RDRXB_BUF_SHIFT < 256 ∧
        b.toNat * 2 ^ g.RDRXB_DATA_SHIFT < 256 then
      (g.RXIF_BIT[a.toNat]?).map (fun m =>
        [[g.CMD_RDRXB_BASE ||| BitVec.ofNat 8 (a.toNat * 2 ^ g.RDRXB_BUF_SHIFT)
            ||| BitVec.ofNat 8 (b.toNat * 2 ^ g.RDRXB_DATA_SHIFT), g.DUMMY],
          [g.CMD_BITMOD, g.ADDR_CANINTF, m, 0x00]])
    else none
  | .spiInit _ _ _ | .csLow _ _ _ | .csHigh _ _ _ | .xchg _ _ _ | .btTq _ _ _ | .btSeglen _ _ _ | .btPack1 _ _ _
  | .btPack2 _ _ _ | .btPack3 _ _ _ | .btNbt _ _ _ => none

/-- Which byte of the first frame of a frame command carries its result (30_encoding.md R100). -/
def resultByte : Instr → Option Nat
  | .fRead _ _ _ => some 2
  | .fRdstat _ _ _ | .fRdrxb _ _ _ => some 1
  | .fReset _ _ _ | .fWrite _ _ _ | .fBitmod _ _ _ | .fRts _ _ _ | .spiInit _ _ _ | .csLow _ _ _ | .csHigh _ _ _
  | .xchg _ _ _ | .btTq _ _ _ | .btSeglen _ _ _ | .btPack1 _ _ _ | .btPack2 _ _ _ | .btPack3 _ _ _
  | .btNbt _ _ _ => none

/-- What the block puts on the wire at an event: the value sampled is left out. -/
def sentView : Event → Event
  | .sckRise _ => .sckRise false
  | .csFall => .csFall
  | .csRise => .csRise
  | .sckFall m => .sckFall m
  | .released => .released

/-- The primitives of a frame issued one by one through the port (41_frames.md R162). -/
def rawFrame (outs : List Byte) : List Instr :=
  .csLow 0 0 0 :: (outs.map (fun o => Instr.xchg o 0 0) ++ [.csHigh 0 0 0])

/-- The primitives of the frames `fs` issued one by one. -/
def rawFrames (fs : List (List Byte)) : List Instr := fs.flatMap rawFrame

/-- The responses of commands executed one after the other. -/
def responses : List Instr → State → List RespWord
  | [], _ => []
  | i :: is, s =>
    match exec i s with
    | .next t => t.rsp :: responses is t
    | .fault _ => []
    | .refused _ => []

/-- Commands executed one after the other, each at the state the one before left. -/
def execAll : List Instr → State → Host.Outcome State Fault Refusal
  | [], s => .next s
  | i :: is, s =>
    match exec i s with
    | .next t => execAll is t
    | .fault r => .fault r
    | .refused r => .refused r

/-- The mode-control, mode-status and interrupt-flag registers are three (20_memory.md R67). -/
abbrev AddrDistinct (g : Cfg) : Prop :=
  g.ADDR_CANCTRL ≠ g.ADDR_CANSTAT ∧ g.ADDR_CANCTRL ≠ g.ADDR_CANINTF ∧ g.ADDR_CANSTAT ≠ g.ADDR_CANINTF

/-- Whether the command is a frame command (41_frames.md R151 to R157). -/
def isFrame (f : Fop) : Bool :=
  match f with
  | .fReset | .fRead | .fWrite | .fBitmod | .fRts | .fRdstat | .fRdrxb => true
  | .idle | .spiInit | .csLow | .csHigh | .xchg | .btTq | .btSeglen | .btPack1 | .btPack2 | .btPack3 | .btNbt => false

/-- The primitive is an exchange. -/
def isXchg (p : Option Prim) : Bool :=
  match p with
  | some (.xchg _ _) => true
  | some .csLow | some .csHigh | none => false

/-- The invariants of the block: those of 10_state.md R44, and what they rest on. -/
structure Inv (s : State) : Prop where
  /-- R44: `BUSY = 1` implies `EN = 1`. -/
  busyEnabled : s.busy = true → s.en = true
  /-- R44: `BITCNT <= 8`. -/
  bitcntRange : s.bitcnt.toNat ≤ 8
  /-- In flight, fewer than eight bits are sampled (40_transport.md R128). -/
  bitcntFlying : s.busy = true → s.bitcnt.toNat < 8
  /-- R44: `BUSY = 0` and `EN = 1` imply `SCK = 1`. -/
  sckIdle : s.busy = false → s.en = true → s.sck = some true
  /-- R44: `BUSY = 0` implies `BITCNT` is 0 or 8. -/
  bitcntResting : s.busy = false → s.bitcnt = 0 ∨ s.bitcnt = 8
  /-- R44: not (`TC = 1` and `BUSY = 1`). -/
  flagsExclusive : ¬(s.tc = true ∧ s.busy = true)
  /-- R44: `IE = 0`. -/
  ieZero : s.ie = false
  /-- R44: after SPI_INIT the control fields are 1, 1, 0, 1, 1. -/
  controlFields : s.en = true → s.mstr = true ∧ s.dord = false ∧ s.cpol = true ∧ s.cpha = true
  /-- R43: the lines are driven from SPI_INIT on. -/
  driven : s.en = true → s.csN ≠ none ∧ s.sck ≠ none
  /-- R42: before SPI_INIT they are not. -/
  undriven : s.en = false → s.csN = none ∧ s.sck = none ∧ s.mosi = none
  /-- A command in progress is past the check of 30_encoding.md R97. -/
  inProgressEnabled : s.fop ≠ .idle → s.en = true
  /-- Only an exchange uses the flags (40_transport.md R120). -/
  flagsAtExchange : s.busy = true ∨ s.tc = true → isXchg (currentPrim s) = true
  /-- R22: `FIDX` counts the primitives issued. -/
  fidxRange : s.fidx.toNat ≤ (script s).length
  /-- R22: `FIDX` is 0 between commands. -/
  fidxIdle : s.fop = .idle → s.fidx = 0
  /-- 20_memory.md R61, 41_frames.md R160: inside a frame, from its first byte until its CS_HIGH, the slave is selected. -/
  frameSelected : isFrame s.fop = true → (isXchg (currentPrim s) = true ∨ currentPrim s = some .csHigh) →
    s.csN = some false
  /-- 30_encoding.md R95, R96: the response word has zeros in bits 14:10, and with `ERR = 1` it is 0x8000. -/
  responseForm : s.rsp.extractLsb' 10 5 = 0 ∧ (s.rsp.getLsbD 15 = true → s.rsp = 0x8000)
  /-- 43_sequences.md R202 case c: a read of the mode that has no response yet has returned nothing. -/
  readCompleted : ReadsMode s.cfg s.fop s.opa → s.modeRead = none

/-- What an observer of the wires knows: chip-select asserted, SCK low, bits of the current byte clocked. -/
structure Wire where
  asserted : Bool
  sckLow : Bool
  bits : Nat
  deriving DecidableEq, Repr

/-- The waveform rules of 40_transport.md R130, R133: chip-select moves only between bytes and each time the other way;
SCK falls and rises strictly alternating; eight bits make a byte; a reset releases everything (70_reset_and_hazards.md R250). -/
def wireStep (w : Wire) (e : Event) : Option Wire :=
  match e with
  | .csFall => if w.asserted = false ∧ w.sckLow = false ∧ w.bits = 0 then some { w with asserted := true } else none
  | .csRise => if w.asserted = true ∧ w.sckLow = false ∧ w.bits = 0 then some { w with asserted := false } else none
  | .sckFall _ => if w.sckLow = false then some { w with sckLow := true } else none
  | .sckRise _ => if w.sckLow = true then some { w with sckLow := false, bits := (w.bits + 1) % 8 } else none
  | .released => some { asserted := false, sckLow := false, bits := 0 }

/-- An observer reads a trace from undriven lines. -/
def wireRun : Wire → List Event → Option Wire
  | w, [] => some w
  | w, e :: es =>
    match wireStep w e with
    | some w' => wireRun w' es
    | none => none

/-- The trace is a legal waveform and ends with the lines at the levels the block drives. -/
def WireOk (s : State) : Prop :=
  wireRun { asserted := false, sckLow := false, bits := 0 } s.trace =
    some { asserted := decide (s.csN = some false), sckLow := decide (s.sck = some false),
           bits := if s.busy = true then s.bitcnt.toNat else 0 }

/-- A slave in terms of the bytes of a frame: what it does when chip-select falls, the byte it replies, fixed before the
byte it receives is known (20_memory.md R73), what it does with that byte, and when chip-select rises (R69: which of the
two stores is the slave's); what it does by itself while one moment passes between two frames; which of its states are
meant, the content of a register, and its status byte. -/
structure SlaveView (σ : Type) where
  fall : σ → σ
  reply : σ → Byte
  take : σ → Byte → σ
  rise : σ → σ
  wait : σ → σ
  valid : σ → Prop
  content : σ → Byte → Byte
  status : σ → Byte

/-- The replies of the slave to the bytes `outs`, and its state after them. -/
def SlaveView.bytes {σ : Type} (v : SlaveView σ) (st : σ) : List Byte → List Byte × σ
  | [] => ([], st)
  | o :: os =>
    let rest := v.bytes (v.take st o) os
    (v.reply st :: rest.1, rest.2)

/-- The replies of the slave to a whole frame, from CsFall to CsRise, and its state after it. -/
def SlaveView.frame {σ : Type} (v : SlaveView σ) (st : σ) (outs : List Byte) : List Byte × σ :=
  let r := v.bytes (v.fall st) outs
  (r.1, v.rise r.2)

/-- The slave after `n` moments between frames. -/
def SlaveView.waits {σ : Type} (v : SlaveView σ) : Nat → σ → σ
  | 0, st => st
  | n + 1, st => v.waits n (v.wait st)

/-- The replies of the slave in a session: frames, each after a pause of so many moments. -/
def SlaveView.session {σ : Type} (v : SlaveView σ) (st : σ) : List (Nat × List Byte) → List (List Byte)
  | [] => []
  | (n, outs) :: fs =>
    let r := v.frame (v.waits n st) outs
    r.1 :: v.session r.2 fs

/-- The premise that ties the oracle to a slave: over the session `fs` the oracle of `s` answers every `MisoSample()` as the
slave `v` does from its state `st`, and has the answers `rest` left (20_memory.md R70, R74). No frame depends on an answer,
so a session names its frames beforehand. -/
def OracleIs {σ : Type} (v : SlaveView σ) (st : σ) (fs : List (Nat × List Byte)) (rest : List Bool) (s : State) : Prop :=
  s.slave = .oracle ∧ s.answers = (v.session st fs).flatten.flatMap byteBits ++ rest

/-- The slave stays in the states that are meant. -/
def SlaveKeeps {σ : Type} (v : SlaveView σ) : Prop :=
  ∀ st, v.valid st → v.valid (v.wait st) ∧ ∀ outs, v.valid (v.frame st outs).2

/-- Premise `SlaveRead` (20_memory.md R74): in a frame that begins with CMD_READ and `a` the third reply is the content of `a`. -/
def SlaveRead {σ : Type} (g : Cfg) (v : SlaveView σ) : Prop :=
  ∀ st a d more, v.valid st → (v.frame st (g.CMD_READ :: a :: d :: more)).1[2]? = some (v.content st a)

/-- Premise `SlaveWrite` (R74) for the registers `plain`, which the slave does not change by itself. -/
def SlaveWrite {σ : Type} (g : Cfg) (v : SlaveView σ) (plain : Byte → Prop) : Prop :=
  ∀ st a, v.valid st → plain a →
    (∀ x, v.content (v.frame st [g.CMD_WRITE, a, x]).2 a = x) ∧ v.content (v.wait st) a = v.content st a

/-- Premise `SlaveBitMod` (R74) for the registers `modifiable` (93_implementation_defined.md U6). -/
def SlaveBitMod {σ : Type} (g : Cfg) (v : SlaveView σ) (modifiable : Byte → Prop) : Prop :=
  ∀ st a m x, v.valid st → modifiable a →
    v.content (v.frame st [g.CMD_BITMOD, a, m, x]).2 a = maskedUpdate (v.content st a) m x

/-- Premise `SlaveStatus` (R74): in a frame that begins with CMD_RDSTAT the second reply is the status byte. -/
def SlaveStatus {σ : Type} (g : Cfg) (v : SlaveView σ) : Prop :=
  ∀ st d more, v.valid st → (v.frame st (g.CMD_RDSTAT :: d :: more)).1[1]? = some (v.status st)

/-- The mode the slave reports, the mode bits of its mode-status register (43_sequences.md R203). -/
def slaveMode {σ : Type} (g : Cfg) (v : SlaveView σ) (st : σ) : Byte := v.content st g.ADDR_CANSTAT &&& g.MODE_MASK

/-- Premise `SlaveReset` (R74): after a reset frame the slave is in Configuration mode. -/
def SlaveReset {σ : Type} (g : Cfg) (v : SlaveView σ) : Prop :=
  ∀ st, v.valid st → slaveMode g v (v.frame st [g.CMD_RESET]).2 = g.MODE_CONFIG &&& g.MODE_MASK

/-- Premise `SlavePowerOn` (R74) of the initial state `st`. -/
def SlavePowerOn {σ : Type} (g : Cfg) (v : SlaveView σ) (st : σ) : Prop :=
  slaveMode g v st = g.MODE_CONFIG &&& g.MODE_MASK

/-- The frame `f` writes mode bits of the mode-control register, by a write or by a bit-modify of some of them, and leaves
`m` in them; `old` is the content of that register before. -/
def ModeRequest (g : Cfg) (old : Byte) (f : List Byte) (m : Byte) : Prop :=
  (∃ x, f = [g.CMD_WRITE, g.ADDR_CANCTRL, x] ∧ m = x &&& g.MODE_MASK) ∨
  (∃ mask x, f = [g.CMD_BITMOD, g.ADDR_CANCTRL, mask, x] ∧ mask &&& g.MODE_MASK ≠ 0 ∧
    m = maskedUpdate old mask x &&& g.MODE_MASK)

/-- The slave reports the mode of every request from `bound` moments after it on, until the next frame. -/
def SlaveModeWithin {σ : Type} (g : Cfg) (v : SlaveView σ) (bound : Nat) : Prop :=
  ∀ st f m, v.valid st → ModeRequest g (v.content st g.ADDR_CANCTRL) f m →
    ∀ n, bound ≤ n → slaveMode g v (v.waits n (v.frame st f).2) = m

/-- Premise `SlaveMode` (R74): after a request the slave comes to report the mode, with no bound on how long it takes
(91_not_in_source.md N24): the bound may differ for every state and request. -/
def SlaveMode {σ : Type} (g : Cfg) (v : SlaveView σ) : Prop :=
  ∀ st f m, v.valid st → ModeRequest g (v.content st g.ADDR_CANCTRL) f m →
    ∃ bound, ∀ n, bound ≤ n → slaveMode g v (v.waits n (v.frame st f).2) = m

/-- Premise `SlaveRxClear` (R74): after the bit-modify of F_RDRXB the receive flag of its buffer is clear. -/
def SlaveRxClear {σ : Type} (g : Cfg) (v : SlaveView σ) : Prop :=
  ∀ st (b : Nat) mask, v.valid st → b < g.N_RX_BUF → g.RXIF_BIT[b]? = some mask →
    v.content (v.frame st [g.CMD_BITMOD, g.ADDR_CANINTF, mask, 0x00]).2 g.ADDR_CANINTF &&& mask = 0

/-- The reference slave as a slave of bytes (20_memory.md R80 to R87; the status stand-in of R83). -/
def refView (g : Cfg) (stuck : Bool) : SlaveView RefSlave where
  fall := refCsFall
  reply := refReply g
  take := fun r o => refReceive g stuck { r with rx := o } o
  rise := fun r => r
  wait := fun r => r
  valid := fun r => r.sreg.wf = true
  content := fun r a => r.sreg.read a
  status := fun r => r.sreg.read g.ADDR_CANINTF &&& 0x03

end Sys2Proof.Machine
end

