-- ==== Sys2Proof/Certificates/Slice0/Obligations.lean ====
section
/-! DEFINITION. The statements for the provers. Each docstring names the rule it formalises; a clause that rests on a choice
of the model names its log entry. -/

open Sys2Proof Sys2Proof.Machine

/- Encoding -/

/-- Words written out from 30_encoding.md R92, R94, R106 are the commands they stand for. -/
def Obligations.SpecWordsDecode : Prop :=
  decode 0x00ABCDEF = .ok (.spiInit 0xAB 0xCD 0xEF) ∧ decode 0x01FFFFFF = .ok (.csLow 0xFF 0xFF 0xFF) ∧
  decode 0x03A5FFFF = .ok (.xchg 0xA5 0xFF 0xFF) ∧ decode 0x130FE040 = .ok (.fBitmod 0x0F 0xE0 0x40) ∧
  decode 0x16000100 = .ok (.fRdrxb 0x00 0x01 0x00) ∧ decode 0x25010605 = .ok (.btNbt 0x01 0x06 0x05) ∧
  decode 0x17000000 = .error (.illegalOp 0x17)

/-- Decoding the word of a command gives the command: no bit of an operand is dropped (R92, R93, R106). -/
def Obligations.DecodeOfEncode : Prop := ∀ i : Instr, i.wf = true → decode (encode i) = .ok i

/-- A legal word is the word of the command it decodes to: each word has one meaning (R92, R94). -/
def Obligations.EncodeOfDecode : Prop := ∀ (w : CmdWord) (i : Instr), decode w = .ok i → encode i = w

/-- R98: which words are illegal, and that the port refuses them with `0x8000` and no other effect (R96); the refusal is the
spec's own decision D6. -/
def Obligations.IllegalWordsRefused : Prop :=
  ∀ w : CmdWord,
    ((∃ op, decode w = .error (.illegalOp op)) ↔
      (0x04 ≤ (w.extractLsb' 24 8).toNat ∧ (w.extractLsb' 24 8).toNat ≤ 0x0F) ∨
      (0x17 ≤ (w.extractLsb' 24 8).toNat ∧ (w.extractLsb' 24 8).toNat ≤ 0x1F) ∨
      (0x26 ≤ (w.extractLsb' 24 8).toNat)) ∧
    (∀ op s rest, decode w = .error (.illegalOp op) → s.fop = .idle → s.inputs = .word w :: rest →
      step s = .next (refusedState { s with inputs := rest }
        (w.extractLsb' 16 8) (w.extractLsb' 8 8) (w.extractLsb' 0 8)))

/- The step -/

/-- A step with the port open and a legal word presented runs the decoded command (R91). -/
def Obligations.StepRunsDecoded : Prop :=
  ∀ (s : State) (w : CmdWord) (rest : List Input) (i : Instr),
    s.inputs = .word w :: rest → s.fop = .idle → decode w = .ok i → step s = exec i { s with inputs := rest }

/-- R91: between acceptance and response the port accepts nothing; the word waits, and the latches stand unless a reset comes
(log 19, log 20). -/
def Obligations.ClosedPortAcceptsNothing : Prop :=
  ∀ (s : State) (w : CmdWord) (rest : List Input), s.inputs = .word w :: rest → s.fop ≠ .idle →
    (∀ i, exec i s = .next s) ∧
    ∃ t, step s = .next t ∧ t.inputs = s.inputs ∧ (t.fop = s.fop ∨ t.fop = .idle) ∧
      (s.resetIn = none → t.opa = s.opa ∧ t.opb = s.opb ∧ t.opc = s.opc)

/-- R250: a hardware reset, presented at any moment or due inside a command, what it leaves, and that TRACE and DIAG are kept;
and R252: the slave is not reached. The reset values are the spec's own decision D4; the elements R42 gives no value are left
open here; the moment as a count is log 20. -/
def Obligations.ResetActsAtOnce : Prop :=
  ∀ (s : State) (rest : List Input),
    s.inputs = .reset :: rest ∨ (s.inputs = rest ∧ rest = [] ∧ s.fop ≠ .idle ∧ s.resetIn = some 0) →
    ∃ t, step s = .next t ∧ t.en = false ∧ t.mstr = false ∧ t.dord = false ∧ t.cpol = false ∧ t.cpha = false ∧
      t.ie = false ∧ t.csN = none ∧ t.sck = none ∧ t.mosi = none ∧ t.bitcnt = 0 ∧ t.busy = false ∧ t.tc = false ∧
      t.fop = .idle ∧ t.fidx = 0 ∧ t.trace = (if s.en = true then s.trace ++ [.released] else s.trace) ∧
      t.diag = s.diag ∧ t.slave = s.slave ∧ t.ref = s.ref ∧ t.answers = s.answers ∧ t.cfg = s.cfg ∧ t.inputs = rest ∧
      t.modeRead = s.modeRead ∧ t.ok = s.ok

/-- The power-on values of R42, the spec's own decision D4, and the values SPI_INIT then leaves (its second column). -/
def Obligations.PowerOnThenInit : Prop :=
  State.reset.en = false ∧ State.reset.mstr = false ∧ State.reset.dord = false ∧ State.reset.cpol = false ∧
  State.reset.cpha = false ∧ State.reset.ie = false ∧ State.reset.csN = none ∧ State.reset.sck = none ∧
  State.reset.mosi = none ∧ State.reset.bitcnt = 0 ∧ State.reset.busy = false ∧ State.reset.tc = false ∧
  State.reset.fop = .idle ∧ State.reset.fidx = 0 ∧ State.reset.trace = [] ∧ State.reset.diag = [] ∧
  ∀ a b c, ∃ t, exec (.spiInit a b c) State.reset = .next t ∧ t.en = true ∧ t.mstr = true ∧ t.dord = false ∧
    t.cpol = true ∧ t.cpha = true ∧ t.ie = false ∧ t.ckdiv = State.reset.cfg.SCK_DIV ∧ t.csN = some true ∧
    t.sck = some true ∧ t.mosi = none ∧ t.bitcnt = 0 ∧ t.busy = false ∧ t.tc = false ∧ t.fop = .idle ∧ t.fidx = 0 ∧
    t.opa = a ∧ t.opb = b ∧ t.opc = c ∧ t.rsp = 0 ∧ t.trace = [] ∧ t.diag = []

/-- R97: which commands are refused while `EN = 0` and which are not; the spec's own decision D6. To the host a refused read of
the mode has returned nothing (log 18). -/
def Obligations.NotInitialisedRefused : Prop :=
  ∀ (i : Instr) (s : State), s.fop = .idle → s.en = false →
    (needsEnable i = true → exec i s = .next { refusedState s i.a i.b i.c with
      modeRead := if fopOf i = .fRead ∧ i.a = s.cfg.ADDR_CANSTAT then none else s.modeRead }) ∧
    (needsEnable i = false → ∃ t, exec i s = .next t ∧ t.rsp.getLsbD 15 = false ∧ t.fop = .idle)

/- The transport -/

/-- R121: SPI_INIT, from every state with the port open. That it drives CS_N to 1 is the spec's own decision D7, D26; the
record of a breach is left open (log 11). -/
def Obligations.SpiInitEffect : Prop :=
  ∀ (a b c : Byte) (s : State), s.fop = .idle →
    decode (0x00#8 ++ a ++ b ++ c) = .ok (.spiInit a b c) ∧
    ∃ t, exec (.spiInit a b c) s = .next t ∧ t =
      { s with
        en := true
        mstr := true
        dord := false
        cpol := true
        cpha := true
        ckdiv := s.cfg.SCK_DIV
        bitcnt := 0
        sck := some true
        csN := some true
        trace := if s.csN = some false then s.trace ++ [.csRise] else s.trace
        opa := a
        opb := b
        opc := c
        fidx := 0
        rsp := 0
        breaches := t.breaches }

/-- R123: CS_LOW, and its refusal (R97). Of the slave's side only the reference slave's place in its frame may change, no
register of it. -/
def Obligations.CsLowEffect : Prop :=
  ∀ (a b c : Byte) (s : State), s.fop = .idle →
    decode (0x01#8 ++ a ++ b ++ c) = .ok (.csLow a b c) ∧
    (s.en = false → exec (.csLow a b c) s = .next (refusedState s a b c)) ∧
    (s.en = true → ∃ t, exec (.csLow a b c) s = .next t ∧ t.ref.sreg = s.ref.sreg ∧
      (s.csN = some false → t.ref = s.ref) ∧ t =
      { s with
        csN := if s.csN = some true then some false else s.csN
        trace := if s.csN = some true then s.trace ++ [.csFall] else s.trace
        opa := a
        opb := b
        opc := c
        fidx := 0
        rsp := 0
        ref := t.ref
        breaches := t.breaches })

/-- R124: CS_HIGH, and its refusal (R97). -/
def Obligations.CsHighEffect : Prop :=
  ∀ (a b c : Byte) (s : State), s.fop = .idle →
    decode (0x02#8 ++ a ++ b ++ c) = .ok (.csHigh a b c) ∧
    (s.en = false → exec (.csHigh a b c) s = .next (refusedState s a b c)) ∧
    (s.en = true → ∃ t, exec (.csHigh a b c) s = .next t ∧ t =
      { s with
        csN := if s.csN = some false then some true else s.csN
        trace := if s.csN = some false then s.trace ++ [.csRise] else s.trace
        opa := a
        opb := b
        opc := c
        fidx := 0
        rsp := 0
        breaches := t.breaches })

/-- R126, which the spec derives: XCHG as one step, with the byte received from the selected slave, or drawn when none is
selected (R71). -/
def Obligations.XchgEffect : Prop :=
  ∀ (a b c : Byte) (s : State), Ready s →
    ∃ t i, exec (.xchg a b c) s = .next t ∧
      (s.csN = some false → SlaveBytes s t [a] [i]) ∧ (s.csN ≠ some false → NobodyAnswered s t i) ∧ t =
      { s with
        sr := i
        data := i
        bitcnt := 8
        mosi := some (a.getLsbD 0)
        rsp := okWord (zextData i)
        trace := s.trace ++ byteEvents a i
        opa := a
        opb := b
        opc := c
        fidx := 0
        answers := t.answers
        draws := t.draws
        ref := t.ref
        breaches := t.breaches }

/-- R62, R70: the eight samples in the order taken are the byte returned, bit 7 first. -/
def Obligations.XchgReturnsSamples : Prop :=
  ∀ (a b c i : Byte) (rest : List Bool) (s : State), Ready s → s.csN = some false → s.slave = .oracle →
    s.answers = byteBits i ++ rest →
    ∃ t, exec (.xchg a b c) s = .next t ∧ t.rsp = okWord (zextData i) ∧ t.data = i ∧ t.answers = rest ∧
      t.trace = s.trace ++ byteEvents a i

/-- R130: while a transfer is in flight exactly one of the two edges is enabled, so the sixteen steps have one order; the next
small step is that edge, or none while the engine stays away (R131, log 2). -/
def Obligations.EdgesAlternate : Prop :=
  ∀ s : State, Inv s → s.busy = true →
    ((leadingEdge s).isSome = true ↔ s.sck = some true) ∧ ((trailingEdge s).isSome = true ↔ s.sck = some false) ∧
    ((leadingEdge s).isSome = true ↔ ¬ (trailingEdge s).isSome = true) ∧
    smallStep s = (if s.sched = some 0 then none else (engineStep s).map spend)

/-- R131: the hang is an admitted execution: while the engine takes no step of a transfer in flight, the state stays as it is,
for ever if nothing but words are presented. The schedule is log 2, the reset to come log 20. -/
def Obligations.HangIsKept : Prop :=
  ∀ s : State, Inv s → s.busy = true → s.sched = some 0 → s.resetIn = none →
    (s.inputs = [] ∨ ∃ w rest, s.inputs = .word w :: rest) → step s = .next s

/-- R131: under `EngineFair` every command accepted, and every command in progress, ends with its response; every XCHG takes
exactly sixteen steps of the engine; and only the engine can stay away: a command that rests, rests in a transfer the engine
does not clock. `EngineFair` as a schedule without bound is log 2, no reset to come log 20. -/
def Obligations.FairEngineCompletes : Prop :=
  (∀ s : State, Inv s → EngineFair s → s.resetIn = none →
    (resume s).fop = .idle ∧ (s.fop = .idle → ∀ i, ∃ t, exec i s = .next t ∧ t.fop = .idle)) ∧
  (∀ (a b c : Byte) (n : Nat) (s : State), Idling s → s.resetIn = none → s.sched = some n →
    ∃ t, exec (.xchg a b c) s = .next t ∧
      (16 ≤ n → t.fop = .idle ∧ t.sched = some (n - 16)) ∧ (n < 16 → t.fop = .xchg ∧ t.busy = true ∧ t.sched = some
0)) ∧
  (∀ s : State, Inv s → s.resetIn = none →
    (resume s).fop = .idle ∨ ((resume s).busy = true ∧ (resume s).sched = some 0))

/-- R130: when the engine stays away after any number of its steps and then goes on, the command ends as if it had not: the
steps have one order. The schedule is log 2, no reset to come log 20. -/
def Obligations.RestingChangesNothing : Prop :=
  ∀ (s : State) (n : Nat), Inv s → EngineFair s → s.resetIn = none →
    resume { resume { s with sched := some n } with sched := none } = resume s

/- The frame commands -/

/-- R151: F_RESET is a frame of one byte, a length that is R101's own decision D13. The one-step form with its frame
condition is that of R158 and R126, which the spec derives; the slave clause is log 3's form; that the settle wait
changes nothing and is no step is log 16. The refusal is R97's (decision D6). -/
def Obligations.FResetEffect : Prop :=
  ∀ (a b c : Byte) (s : State), s.fop = .idle →
    decode (0x10#8 ++ a ++ b ++ c) = .ok (.fReset a b c) ∧
    (s.en = false → exec (.fReset a b c) s = .next (refusedState s a b c)) ∧
    (Ready s → s.csN = some true →
      ∃ t i0, exec (.fReset a b c) s = .next t ∧ SlaveAnswered s t [s.cfg.CMD_RESET] [i0] ∧
        FrameDone s t a b c (frameEvents [s.cfg.CMD_RESET] [i0]) s.cfg.CMD_RESET i0 0)

/-- R152: F_READ is a frame of three bytes; the third byte received is the response. The one-step form with its frame
condition is that of R158 and R126, which the spec derives; the slave clause is log 3's form; the refusal is R97's
(decision D6).
The byte of a read of the mode-status register is the one the host then checks (R202 step 3, log 18). -/
def Obligations.FReadEffect : Prop :=
  ∀ (a b c : Byte) (s : State), s.fop = .idle →
    decode (0x11#8 ++ a ++ b ++ c) = .ok (.fRead a b c) ∧
    (s.en = false → exec (.fRead a b c) s = .next { refusedState s a b c with
      modeRead := if a = s.cfg.ADDR_CANSTAT then none else s.modeRead }) ∧
    (Ready s → s.csN = some true →
      ∃ t i0 i1 i2, exec (.fRead a b c) s = .next t ∧
        SlaveAnswered s t [s.cfg.CMD_READ, a, s.cfg.DUMMY] [i0, i1, i2] ∧
        FrameDone { s with modeRead := if a = s.cfg.ADDR_CANSTAT then some i2 else s.modeRead } t a b c
          (frameEvents [s.cfg.CMD_READ, a, s.cfg.DUMMY] [i0, i1, i2]) s.cfg.DUMMY i2 (okWord (zextData i2)))

/-- R153: F_WRITE is a frame of three bytes: command byte, address, value. The one-step form with its frame condition is
that of R158 and R126, which the spec derives; the slave clause is log 3's form; the refusal is R97's (decision D6). -/
def Obligations.FWriteEffect : Prop :=
  ∀ (a b c : Byte) (s : State), s.fop = .idle →
    decode (0x12#8 ++ a ++ b ++ c) = .ok (.fWrite a b c) ∧
    (s.en = false → exec (.fWrite a b c) s = .next (refusedState s a b c)) ∧
    (Ready s → s.csN = some true →
      ∃ t i0 i1 i2, exec (.fWrite a b c) s = .next t ∧
        SlaveAnswered s t [s.cfg.CMD_WRITE, a, b] [i0, i1, i2] ∧
        FrameDone s t a b c (frameEvents [s.cfg.CMD_WRITE, a, b] [i0, i1, i2]) b i2 0)

/-- R154: F_BITMOD is a frame of four bytes: command byte, address, mask, value, the value not masked. The one-step form
with its frame condition is that of R158 and R126, which the spec derives; the slave clause is log 3's form; the
refusal is R97's (decision D6). -/
def Obligations.FBitmodEffect : Prop :=
  ∀ (a b c : Byte) (s : State), s.fop = .idle →
    decode (0x13#8 ++ a ++ b ++ c) = .ok (.fBitmod a b c) ∧
    (s.en = false → exec (.fBitmod a b c) s = .next (refusedState s a b c)) ∧
    (Ready s → s.csN = some true →
      ∃ t i0 i1 i2 i3, exec (.fBitmod a b c) s = .next t ∧
        SlaveAnswered s t [s.cfg.CMD_BITMOD, a, b, c] [i0, i1, i2, i3] ∧
        FrameDone s t a b c (frameEvents [s.cfg.CMD_BITMOD, a, b, c] [i0, i1, i2, i3]) c i3 0)

/-- R155, R102: F_RTS with a selector in range whose set bit lies in the byte sends one byte with that one selector bit. Where
the bit leaves the byte the spec states no byte (log 23); that case stands in the next statement. -/
def Obligations.FRtsEffect : Prop :=
  ∀ (a b c : Byte) (s : State), Ready s → s.csN = some true → a.toNat < s.cfg.N_TX_BUF → a.toNat < 8 →
    ∃ t i0, exec (.fRts a b c) s = .next t ∧
      SlaveAnswered s t [s.cfg.CMD_RTS_BASE ||| BitVec.ofNat 8 (2 ^ a.toNat)] [i0] ∧
      FrameDone s t a b c (frameEvents [s.cfg.CMD_RTS_BASE ||| BitVec.ofNat 8 (2 ^ a.toNat)] [i0])
        (s.cfg.CMD_RTS_BASE ||| BitVec.ofNat 8 (2 ^ a.toNat)) i0 0

/-- R155 out of range, or with a set bit outside the byte: the frame is sent all the same, with some byte. Which byte is left
open: the model's choice is a free value where U3 lets a model refuse (log 5, log 23). -/
def Obligations.FRtsOutOfRange : Prop :=
  ∀ (a b c : Byte) (s : State), Ready s → s.csN = some true → ¬(a.toNat < s.cfg.N_TX_BUF ∧ a.toNat < 8) →
    ∃ t o i0, exec (.fRts a b c) s = .next t ∧ FrameDone s t a b c (frameEvents [o] [i0]) o i0 0

/-- R156: F_RDSTAT is a frame of two bytes; the second byte received is the response. The one-step form with its frame
condition is that of R158 and R126, which the spec derives; the slave clause is log 3's form; the refusal is R97's
(decision D6). -/
def Obligations.FRdstatEffect : Prop :=
  ∀ (a b c : Byte) (s : State), s.fop = .idle →
    decode (0x15#8 ++ a ++ b ++ c) = .ok (.fRdstat a b c) ∧
    (s.en = false → exec (.fRdstat a b c) s = .next (refusedState s a b c)) ∧
    (Ready s → s.csN = some true →
      ∃ t i0 i1, exec (.fRdstat a b c) s = .next t ∧
        SlaveAnswered s t [s.cfg.CMD_RDSTAT, s.cfg.DUMMY] [i0, i1] ∧
        FrameDone s t a b c (frameEvents [s.cfg.CMD_RDSTAT, s.cfg.DUMMY] [i0, i1]) s.cfg.DUMMY i1
          (okWord (zextData i1)))

/-- R157, R103: F_RDRXB with selectors in range, each inside the byte at its place (log 23), sends the shortcut frame and
the frame that clears the buffer's flag; the second byte received in the first frame is the response. -/
def Obligations.FRdrxbEffect : Prop :=
  ∀ (a b c m : Byte) (s : State), Ready s → s.csN = some true →
    a.toNat < s.cfg.N_RX_BUF → b.toNat < 2 → a.toNat <<< s.cfg.RDRXB_BUF_SHIFT < 256 →
    b.toNat <<< s.cfg.RDRXB_DATA_SHIFT < 256 → s.cfg.RXIF_BIT[a.toNat]? = some m →
    ∃ t u o i0 i1 j0 j1 j2 j3, exec (.fRdrxb a b c) s = .next t ∧
      o = (s.cfg.CMD_RDRXB_BASE ||| BitVec.ofNat 8 (a.toNat <<< s.cfg.RDRXB_BUF_SHIFT)
        ||| BitVec.ofNat 8 (b.toNat <<< s.cfg.RDRXB_DATA_SHIFT)) ∧
      u.slave = s.slave ∧ u.cfg = s.cfg ∧
      SlaveAnswered s u [o, s.cfg.DUMMY] [i0, i1] ∧
      SlaveAnswered u t [s.cfg.CMD_BITMOD, s.cfg.ADDR_CANINTF, m, 0x00] [j0, j1, j2, j3] ∧
      FrameDone s t a b c
        (frameEvents [o, s.cfg.DUMMY] [i0, i1] ++
          frameEvents [s.cfg.CMD_BITMOD, s.cfg.ADDR_CANINTF, m, 0x00] [j0, j1, j2, j3])
        0x00 j3 (okWord (zextData i1))

/-- R157 out of range, or with a selector outside the byte: both frames are sent all the same. The unspecified command
byte, and the mask where there is no such buffer, are left open: the model's choice is a free value where U4 lets a
model refuse (log 5, log 23). -/
def Obligations.FRdrxbOutOfRange : Prop :=
  ∀ (a b c : Byte) (s : State), Ready s → s.csN = some true →
    ¬(a.toNat < s.cfg.N_RX_BUF ∧ b.toNat < 2 ∧ a.toNat <<< s.cfg.RDRXB_BUF_SHIFT < 256 ∧
      b.toNat <<< s.cfg.RDRXB_DATA_SHIFT < 256) →
    ∃ t o m i0 i1 j0 j1 j2 j3, exec (.fRdrxb a b c) s = .next t ∧
      (a.toNat < s.cfg.N_RX_BUF → ∀ k, s.cfg.RXIF_BIT[a.toNat]? = some k → m = k) ∧
      FrameDone s t a b c
        (frameEvents [o, s.cfg.DUMMY] [i0, i1] ++
          frameEvents [s.cfg.CMD_BITMOD, s.cfg.ADDR_CANINTF, m, 0x00] [j0, j1, j2, j3])
        0x00 j3 (okWord (zextData i1))

/-- R158, which the spec derives: frame atomicity of every frame command, selectors in range or not (log 5, log 23): the
events appended are whole frames of the lengths of R100, each with one CsFall at its start and one CsRise at its end,
and chip-select is high at the response. -/
def Obligations.FrameAtomicity : Prop :=
  ∀ (i : Instr) (s : State), isFrame (fopOf i) = true → Ready s → s.csN = some true →
    ∃ (t : State) (outs ins : List (List Byte)), exec i s = .next t ∧ t.fop = .idle ∧ t.csN = some true ∧
      outs.map List.length = frameLengths i ∧ ins.map List.length = frameLengths i ∧
      t.trace = s.trace ++ (outs.zip ins).flatMap (fun p => frameEvents p.1 p.2)

/-- R159: a frame command accepted with a frame left open emits no CsFall, its bytes follow those already sent, and
CS_HIGH closes the combined frame (the breach is recorded, log 11): the events are those of R158 without the first
CsFall. Every frame command, selectors in range or not; where the spec states the bytes also which, and for a command
of one frame that the slave goes on in the frame it was in. -/
def Obligations.FrameInsideOpenFrame : Prop :=
  ∀ (i : Instr) (s : State), isFrame (fopOf i) = true → Ready s → s.csN = some false →
    ∃ (t : State) (outs ins : List (List Byte)), exec i s = .next t ∧ t.fop = .idle ∧ t.csN = some true ∧
      outs.map List.length = frameLengths i ∧ ins.map List.length = frameLengths i ∧
      t.trace = s.trace ++ ((outs.zip ins).flatMap (fun p => frameEvents p.1 p.2)).tail ∧
      ∀ fs, framesOf s.cfg i = some fs → outs = fs ∧ ∀ os is, fs = [os] → ins = [is] → SlaveBytes s t os is

/-- R162, which the spec derives: the primitives of the frames of a frame command issued one by one give the same events, byte
returned, last byte received and slave; every frame command whose bytes the spec states (log 5, log 23), F_RDRXB as two frames. -/
def Obligations.RawFrameEquivalent : Prop :=
  ∀ (i : Instr) (fs : List (List Byte)) (s : State), framesOf s.cfg i = some fs → Ready s → s.csN = some true →
    ∃ t u, exec i s = .next t ∧ execAll (rawFrames fs) s = .next u ∧
      t.trace = u.trace ∧ t.data = u.data ∧ t.ref = u.ref ∧ t.answers = u.answers ∧ t.draws = u.draws ∧
      ∀ k, resultByte i = some k → (responses (rawFrames fs) s)[k + 1]? = some t.rsp

/-- R158, R70, R157: no byte received changes what is sent: with the same configuration, two blocks whose slaves answer
differently put the same events on the wire, the values sampled apart; every frame command whose bytes the spec states. -/
def Obligations.FrameWireIgnoresSlave : Prop :=
  ∀ (i : Instr) (fs : List (List Byte)) (s s' : State), framesOf s.cfg i = some fs → s'.cfg = s.cfg →
    Ready s → Ready s' → s.csN = some true → s'.csN = some true →
    ∃ t t' es es', exec i s = .next t ∧ exec i s' = .next t' ∧ t.trace = s.trace ++ es ∧ t'.trace = s'.trace ++ es' ∧
      es.map sentView = es'.map sentView

/- The calculator -/

/-- R181: `2 * (A + 1)` oscillator periods, whether or not the block is enabled; and nothing else changes. The result as a
count of oscillator periods is the spec's own decision D18. -/
def Obligations.BtTqEffect : Prop :=
  ∀ (a b c : Byte) (s : State), s.fop = .idle →
    exec (.btTq a b c) s = .next { s with opa := a, opb := b, opc := c, fidx := 0,
                                          rsp := BitVec.ofNat 16 (2 * (a.toNat + 1)) }

/-- R182: `A + 1` time quanta. -/
def Obligations.BtSeglenEffect : Prop :=
  ∀ (a b c : Byte) (s : State), s.fop = .idle →
    exec (.btSeglen a b c) s = .next { s with opa := a, opb := b, opc := c, fidx := 0,
                                              rsp := BitVec.ofNat 16 (a.toNat + 1) }

/-- R183: the byte is `A` itself; the place of the field in it is the spec's own decision D17. -/
def Obligations.BtPackOneEffect : Prop :=
  ∀ (a b c : Byte) (s : State), s.fop = .idle →
    exec (.btPack1 a b c) s = .next { s with opa := a, opb := b, opc := c, fidx := 0,
                                             rsp := BitVec.ofNat 16 a.toNat }

/-- R184: `trunc8(A | (B << PS1_SHIFT))`, the shift without loss and the cut to 8 bits the spec's own decision D18. -/
def Obligations.BtPackTwoEffect : Prop :=
  ∀ (a b c : Byte) (s : State), s.fop = .idle →
    exec (.btPack2 a b c) s = .next { s with opa := a, opb := b, opc := c, fidx := 0,
                                             rsp := BitVec.ofNat 16 ((a.toNat ||| b.toNat * 2 ^ s.cfg.PS1_SHIFT) % 256) }

/-- R185: the byte is `A` itself. -/
def Obligations.BtPackThreeEffect : Prop :=
  ∀ (a b c : Byte) (s : State), s.fop = .idle →
    exec (.btPack3 a b c) s = .next { s with opa := a, opb := b, opc := c, fidx := 0,
                                             rsp := BitVec.ofNat 16 a.toNat }

/-- R187, R192 (the sum is the spec's own decision D19, its width D18): `SYNC_TQ + (A+1) + (B+1) + (C+1)` in 10 bits. With
a SYNC_TQ above 255 the sum could leave 10 bits, which R192 excludes; there the model keeps the low 10 bits (log 15). -/
def Obligations.BtNbtEffect : Prop :=
  ∀ (a b c : Byte) (s : State), s.fop = .idle →
    exec (.btNbt a b c) s = .next { s with
      opa := a, opb := b, opc := c, fidx := 0,
      rsp := BitVec.ofNat 16 ((s.cfg.SYNC_TQ + (a.toNat + 1) + (b.toNat + 1) + (c.toNat + 1)) % 1024) }

/-- R193: a calculator command writes only its latches, FIDX and the response, and its response depends on its operands
and the configuration alone. -/
def Obligations.CalculatorPure : Prop :=
  ∀ (i : Instr) (s s' : State), isCalculator i = true → s.fop = .idle → s'.fop = .idle → s.cfg = s'.cfg →
    ∃ r, exec i s = .next { s with opa := i.a, opb := i.b, opc := i.c, fidx := 0, rsp := r } ∧
      exec i s' = .next { s' with opa := i.a, opb := i.b, opc := i.c, fidx := 0, rsp := r }

/-- R190, which the spec derives: when the fields fit, they read back from the packed bytes, and every other bit is 0. -/
def Obligations.UnpackRecoversFields : Prop :=
  ∀ (g : Cfg) (brp prop ps1 ps2 : Byte),
    g.W_BRP = 6 → g.W_PROP = 3 → g.W_PS1 = 3 → g.W_PS2 = 3 → g.PS1_SHIFT = 3 → btFits g brp prop ps1 ps2 = true →
    let u := btUnpack (btPack1 brp) (btPack2 g prop ps1) (btPack3 ps2)
    u.1.toNat = brp.toNat ∧ u.2.1.toNat = prop.toNat ∧ u.2.2.1.toNat = ps1.toNat ∧ u.2.2.2.toNat = ps2.toNat ∧
    (btPack1 brp).toNat < 64 ∧ (btPack2 g prop ps1).toNat < 64 ∧ (btPack3 ps2).toNat < 8

/-- R189, which the spec derives: `BT_BRP_FOR` is the exact inverse of R181 on the fields that fit. -/
def Obligations.BrpForInvertsTq : Prop :=
  ∀ (g : Cfg) (brp : Byte), 0 < g.F_OSC_HZ →
    (brp.toNat < 2 ^ g.W_BRP → btBrpFor g (tqSeconds g brp) = some brp.toNat) ∧
    (∀ (tq : Rat) (n : Nat), btBrpFor g tq = some n →
      n < 2 ^ g.W_BRP ∧ tq * (g.F_OSC_HZ : Rat) = ((2 * (n + 1) : Nat) : Rat))

/- Invariants and whole-machine rules -/

/-- The power-on state meets the invariants (R44, R42), its trace the waveform rules, its memory the canonical form. The
clause on the response word rests on the model's RSP = 0 at reset (log 8), the memory on log 14. -/
def Obligations.PowerOnInvariants : Prop :=
  Inv State.reset ∧ WireOk State.reset ∧ State.reset.ref.sreg.wf = true

/-- R44, which the spec derives, and what it rests on: every step from every state that meets the invariants leaves one
that meets them. After a reset the clause on the response word rests on the model's RSP = 0 (log 8). -/
def Obligations.StepKeepsInvariants : Prop := ∀ s t : State, Inv s → step s = .next t → Inv t

/-- R61, R130, R133: every step keeps the trace a legal waveform that ends at the levels of the lines. -/
def Obligations.StepKeepsWaveform : Prop :=
  ∀ s t : State, Inv s → WireOk s → step s = .next t → WireOk t

/-- R254: the configuration is written by nothing, and no step changes which slave is there. -/
def Obligations.StepKeepsConfig : Prop :=
  ∀ s t : State, step s = .next t → t.cfg = s.cfg ∧ t.slave = s.slave

/-- R250, R40, R41: the observer's records only grow. -/
def Obligations.RecordsOnlyGrow : Prop :=
  ∀ s t : State, step s = .next t → (∃ es, t.trace = s.trace ++ es) ∧ (∃ ds, t.diag = s.diag ++ ds)

/-- The slave's registers keep their canonical form (log 14). -/
def Obligations.StepKeepsMemoryForm : Prop :=
  ∀ s t : State, s.ref.sreg.wf = true → step s = .next t → t.ref.sreg.wf = true

/-- No state stops the machine: R220, R225, R228. -/
def Obligations.StepAlwaysAnswers : Prop := ∀ s : State, ∃ t, step s = .next t

/-- R256, per command: CS_LOW and the frame commands keep the contract exactly with chip-select high, XCHG and CS_HIGH exactly
with it low, SPI_INIT breaks it exactly with it low (log 11: the first one, with the line undriven, does not), the calculator
never; a breach is recorded once, and nothing else is. -/
def Obligations.BreachesRecorded : Prop :=
  ∀ (i : Instr) (s : State), s.fop = .idle → (needsEnable i = true → s.en = true) →
    ∃ t, exec i s = .next t ∧
      t.breaches = (match fopOf i with
        | .csLow | .fReset | .fRead | .fWrite | .fBitmod | .fRts | .fRdstat | .fRdrxb =>
          if s.csN = some true then s.breaches else s.breaches ++ [.bracket (fopOf i)]
        | .xchg | .csHigh => if s.csN = some false then s.breaches else s.breaches ++ [.bracket (fopOf i)]
        | .spiInit => if s.csN = some false then s.breaches ++ [.bracket .spiInit] else s.breaches
        | .idle | .btTq | .btSeglen | .btPack1 | .btPack2 | .btPack3 | .btNbt => s.breaches)

/- The host's sequences -/

/-- R200 (the order of steps 2 to 6 is the spec's own decision D20; the constants are the spec's defaults, log 6): the
seven words of CAN_INIT with the default configuration. -/
def Obligations.CanInitWords : Prop :=
  canInit Cfg.default = [.word 0x10000000, .word 0x122A0100, .word 0x12291100, .word 0x12280200, .word 0x13606060,
    .word 0x13706060, .word 0x130FE000]

/-- R202 step 4, R222, R224, R227 (the sink is the spec's own decision D22, that the check is always made D21, that it needs a
completed read D6; the check as an input and the byte read as a field are log 18): with the byte of a completed read of the
mode-status register the comparison, its result, the diagnostic, and that nothing else changes; without one there is no result
and nothing is reported. A check that waits for its read is not made while the read has no response; when a reset ends the read
there is no byte and the check has no result; when the read completes, its byte is that of the response. -/
def Obligations.LoopbackCheck : Prop :=
  ∀ (s : State) (rest : List Input), s.inputs = .checkLoopback :: rest →
    (s.fop = .idle → ∀ v, s.modeRead = some v → step s = .next { s with
      inputs := rest
      ok := some (decide ((v &&& s.cfg.MODE_MASK) = s.cfg.MODE_LOOPBACK))
      diag := if (v &&& s.cfg.MODE_MASK) ≠ s.cfg.MODE_LOOPBACK ∧ s.cfg.DIAG_ENABLED = true
        then s.diag ++ [.verificationFailure s.cfg.MODE_LOOPBACK (v &&& s.cfg.MODE_MASK)] else s.diag }) ∧
    (s.fop = .idle → s.modeRead = none → step s = .next { s with inputs := rest, ok := none }) ∧
    (Inv s → s.fop = .fRead → s.opa = s.cfg.ADDR_CANSTAT →
      ∃ t, step s = .next t ∧ t.ok = s.ok ∧ t.diag = s.diag ∧ t.inputs = s.inputs ∧
        ((t.fop = .fRead ∧ t.modeRead = none) ∨
          (t.fop = .idle ∧ t.en = false ∧ t.modeRead = none ∧ step t = .next { t with inputs := rest, ok := none }) ∨
          (t.fop = .idle ∧ t.en = true ∧ t.modeRead = some (t.rsp.setWidth 8))))

/- The reference slave -/

/-- R74, R80 to R87: the reference slave meets every premise, the mode one even without delay, and its stuck variant every
premise but that one, over the states whose registers are in canonical form. -/
def Obligations.ReferenceMeetsPremises : Prop :=
  ∀ g : Cfg, g.cmdDistinct = true → AddrDistinct g →
    (∀ stuck, SlaveKeeps (refView g stuck) ∧ SlaveRead g (refView g stuck) ∧
      SlaveWrite g (refView g stuck) (fun _ => True) ∧ SlaveBitMod g (refView g stuck) (fun _ => True) ∧
      SlaveStatus g (refView g stuck) ∧ SlaveReset g (refView g stuck) ∧
      SlavePowerOn g (refView g stuck) (refInit g) ∧ SlaveRxClear g (refView g stuck)) ∧
    SlaveModeWithin g (refView g false) 0 ∧ SlaveMode g (refView g false)

/-- R70, R74: what ties the oracle to a slave. When the oracle answers as the slave `v` does, a frame command puts the slave's
replies on the wire, responds with the reply to its result byte, and leaves the oracle the rest of its answers (log 3, log 21). -/
def Obligations.OracleAnswersAsSlave : Prop :=
  ∀ (σ : Type) (v : SlaveView σ) (st : σ) (i : Instr) (fs : List (List Byte)) (pauses : List Nat) (rest : List Bool)
    (s : State), framesOf s.cfg i = some fs → pauses.length = fs.length → Ready s → s.csN = some true →
    OracleIs v st (pauses.zip fs) rest s →
    ∃ t, exec i s = .next t ∧ t.answers = rest ∧ t.slave = .oracle ∧
      t.trace = s.trace ++ (fs.zip (v.session st (pauses.zip fs))).flatMap (fun p => frameEvents p.1 p.2) ∧
      ∀ k, resultByte i = some k →
        ∃ r, ((v.session st (pauses.zip fs)).head?.bind (fun replies => replies[k]?)) = some r ∧
          t.rsp = okWord (zextData r)

/-- R74: the named premises on the oracle give the responses the source promises, with any slave that meets them: F_READ the
content (SlaveRead), F_RDSTAT the status (SlaveStatus), F_WRITE then F_READ the value written (SlaveWrite), F_BITMOD then
F_READ the masked update (SlaveBitMod), F_RESET then a read of the mode Configuration (SlaveReset), a mode request by write or
bit-modify and, when enough time has passed, a read of the mode that mode (SlaveMode, no bound), F_RDRXB then a read of the
flags its flag clear (SlaveRxClear). The premises are assumptions on a slave and no property of the block (log 21). -/
def Obligations.PremisesGiveResponses : Prop :=
  ∀ (σ : Type) (v : SlaveView σ) (st : σ) (g : Cfg) (n : Nat) (rest : List Bool),
    v.valid st → SlaveKeeps v → SlaveRead g v →
    (∀ (a b c : Byte) (s : State), s.cfg = g → Ready s → s.csN = some true →
      OracleIs v st [(n, [g.CMD_READ, a, g.DUMMY])] rest s →
      ∃ t, exec (.fRead a b c) s = .next t ∧ t.rsp = okWord (zextData (v.content (v.waits n st) a))) ∧
    (SlaveStatus g v → ∀ (a b c : Byte) (s : State), s.cfg = g → Ready s → s.csN = some true →
      OracleIs v st [(n, [g.CMD_RDSTAT, g.DUMMY])] rest s →
      ∃ t, exec (.fRdstat a b c) s = .next t ∧ t.rsp = okWord (zextData (v.status (v.waits n st)))) ∧
    (∀ plain, SlaveWrite g v plain → ∀ (a x : Byte) (m : Nat) (s : State), plain a → s.cfg = g → Ready s →
      s.csN = some true → OracleIs v st [(n, [g.CMD_WRITE, a, x]), (m, [g.CMD_READ, a, g.DUMMY])] rest s →
      ∃ t, execAll [.fWrite a x 0, .fRead a 0 0] s = .next t ∧ t.rsp = okWord (zextData x)) ∧
    (∀ modifiable, SlaveBitMod g v modifiable → ∀ (a mask x : Byte) (s : State), modifiable a → s.cfg = g → Ready s →
      s.csN = some true → OracleIs v st [(n, [g.CMD_BITMOD, a, mask, x]), (0, [g.CMD_READ, a, g.DUMMY])] rest s →
      ∃ t, execAll [.fBitmod a mask x, .fRead a 0 0] s = .next t ∧
        t.rsp = okWord (zextData (maskedUpdate (v.content (v.waits n st) a) mask x))) ∧
    (SlaveReset g v → ∀ s : State, s.cfg = g → Ready s → s.csN = some true →
      OracleIs v st [(n, [g.CMD_RESET]), (0, [g.CMD_READ, g.ADDR_CANSTAT, g.DUMMY])] rest s →
      ∃ t, execAll [.fReset 0 0 0, .fRead g.ADDR_CANSTAT 0 0] s = .next t ∧
        t.rsp.setWidth 8 &&& g.MODE_MASK = g.MODE_CONFIG &&& g.MODE_MASK) ∧
    (SlaveMode g v → ∀ (i : Instr) (f : List Byte) (m : Byte), framesOf g i = some [f] →
      ModeRequest g (v.content (v.waits n st) g.ADDR_CANCTRL) f m →
      ∃ bound, ∀ (k : Nat) (s : State), bound ≤ k → s.cfg = g → Ready s → s.csN = some true →
        OracleIs v st [(n, f), (k, [g.CMD_READ, g.ADDR_CANSTAT, g.DUMMY])] rest s →
        ∃ t, execAll [i, .fRead g.ADDR_CANSTAT 0 0] s = .next t ∧ t.rsp.setWidth 8 &&& g.MODE_MASK = m) ∧
    (SlaveRxClear g v → ∀ (a b mask : Byte) (f f' : List Byte) (m : Nat) (s : State),
      framesOf g (.fRdrxb a b 0) = some [f, f'] → g.RXIF_BIT[a.toNat]? = some mask → s.cfg = g → Ready s →
      s.csN = some true → OracleIs v st [(n, f), (m, f'), (0, [g.CMD_READ, g.ADDR_CANINTF, g.DUMMY])] rest s →
      ∃ t, execAll [.fRdrxb a b 0, .fRead g.ADDR_CANINTF 0 0] s = .next t ∧ t.rsp.setWidth 8 &&& mask = 0)

/-- R84, R152: with a reference slave F_READ returns the register addressed, and changes no register. -/
def Obligations.ReadReturnsRegister : Prop :=
  ∀ (a b c : Byte) (s : State), Ready s → s.csN = some true → s.slave ≠ .oracle → s.cfg.cmdDistinct = true →
    ∃ t, exec (.fRead a b c) s = .next t ∧ t.rsp = okWord (zextData (s.ref.sreg.read a)) ∧
      ∀ x, t.ref.sreg.read x = s.ref.sreg.read x

/-- R84, R86, R87, R153: with a reference slave F_WRITE stores its value at its address; with the one that is not stuck the
mode-status register follows a write of the mode-control register; every other register is as before. -/
def Obligations.WriteStoresRegister : Prop :=
  ∀ (a b c : Byte) (s : State), Ready s → s.csN = some true → s.slave ≠ .oracle → s.cfg.cmdDistinct = true →
    AddrDistinct s.cfg → s.ref.sreg.wf = true →
    ∃ t, exec (.fWrite a b c) s = .next t ∧ t.ref.sreg.read a = b ∧
      (s.slave = .reference → a = s.cfg.ADDR_CANCTRL → t.ref.sreg.read s.cfg.ADDR_CANSTAT =
        maskedUpdate (s.ref.sreg.read s.cfg.ADDR_CANSTAT) s.cfg.MODE_MASK b) ∧
      ∀ x, x ≠ a → ¬(s.slave = .reference ∧ a = s.cfg.ADDR_CANCTRL ∧ x = s.cfg.ADDR_CANSTAT) →
        t.ref.sreg.read x = s.ref.sreg.read x

/-- R85, R86, R87, R154, R201: with a reference slave F_BITMOD changes only the bits of its mask; with the one that is not stuck
the mode-status register follows every bit-modify of the mode-control register, so a mode requested by CAN_SET_MODE is
reported; every other register is as before. -/
def Obligations.BitmodUpdatesRegister : Prop :=
  ∀ (a m v : Byte) (s : State), Ready s → s.csN = some true → s.slave ≠ .oracle → s.cfg.cmdDistinct = true →
    AddrDistinct s.cfg → s.ref.sreg.wf = true →
    ∃ t, exec (.fBitmod a m v) s = .next t ∧ t.ref.sreg.read a = maskedUpdate (s.ref.sreg.read a) m v ∧
      (s.slave = .reference → a = s.cfg.ADDR_CANCTRL → t.ref.sreg.read s.cfg.ADDR_CANSTAT =
        maskedUpdate (s.ref.sreg.read s.cfg.ADDR_CANSTAT) s.cfg.MODE_MASK (maskedUpdate (s.ref.sreg.read a) m v)) ∧
      (s.slave = .reference → a = s.cfg.ADDR_CANCTRL → m = s.cfg.MODE_MASK →
        t.ref.sreg.read s.cfg.ADDR_CANSTAT &&& s.cfg.MODE_MASK = v &&& s.cfg.MODE_MASK) ∧
      ∀ x, x ≠ a → ¬(s.slave = .reference ∧ a = s.cfg.ADDR_CANCTRL ∧ x = s.cfg.ADDR_CANSTAT) →
        t.ref.sreg.read x = s.ref.sreg.read x

/-- R82, R151: with a reference slave F_RESET puts Configuration into the mode bits of both mode registers, and changes no
other register. -/
def Obligations.ResetForcesConfiguration : Prop :=
  ∀ (a b c : Byte) (s : State), Ready s → s.csN = some true → s.slave ≠ .oracle → s.cfg.cmdDistinct = true →
    AddrDistinct s.cfg → s.ref.sreg.wf = true →
    ∃ t, exec (.fReset a b c) s = .next t ∧
      ∀ x, t.ref.sreg.read x = (if x = s.cfg.ADDR_CANCTRL ∨ x = s.cfg.ADDR_CANSTAT
        then (s.ref.sreg.read x &&& ~~~s.cfg.MODE_MASK) ||| s.cfg.MODE_CONFIG else s.ref.sreg.read x)

/-- R82, R83, R155, R156: with a reference slave F_RDSTAT returns its two receive flags, F_RTS in range asks for one buffer,
and neither changes a register. The status byte is the stand-in of R83. -/
def Obligations.StatusAndRequestStoreNothing : Prop :=
  ∀ (a b c : Byte) (s : State), Ready s → s.csN = some true → s.slave ≠ .oracle → s.cfg.cmdDistinct = true →
    (∃ t, exec (.fRdstat a b c) s = .next t ∧ t.rsp = okWord (zextData (s.ref.sreg.read s.cfg.ADDR_CANINTF &&& 0x03)) ∧
      t.ref.rtsLog = s.ref.rtsLog ∧ ∀ x, t.ref.sreg.read x = s.ref.sreg.read x) ∧
    (a.toNat < s.cfg.N_TX_BUF → a.toNat < 8 →
      ∃ t, exec (.fRts a b c) s = .next t ∧ t.ref.rtsLog = s.ref.rtsLog ++ [a] ∧
        ∀ x, t.ref.sreg.read x = s.ref.sreg.read x)

/-- The round trip of the source (S5) with a reference slave: F_WRITE then F_READ returns the value written. -/
def Obligations.RoundTrip : Prop :=
  ∀ (a v : Byte) (s : State), Ready s → s.csN = some true → s.slave ≠ .oracle → s.cfg.cmdDistinct = true →
    AddrDistinct s.cfg → s.ref.sreg.wf = true →
    ∃ t, execAll [.fWrite a v 0, .fRead a 0 0] s = .next t ∧ t.rsp = okWord (zextData v)

/-- R157, S7: with a reference slave F_RDRXB clears the flag of its buffer in the interrupt-flag register, and changes no
other bit of it and no other register. -/
def Obligations.RdrxbClearsFlag : Prop :=
  ∀ (a b c m : Byte) (s : State), Ready s → s.csN = some true → s.slave ≠ .oracle → s.cfg.cmdDistinct = true →
    AddrDistinct s.cfg → s.ref.sreg.wf = true → a.toNat < s.cfg.N_RX_BUF → b.toNat < 2 →
    a.toNat <<< s.cfg.RDRXB_BUF_SHIFT < 256 → b.toNat <<< s.cfg.RDRXB_DATA_SHIFT < 256 →
    s.cfg.RXIF_BIT[a.toNat]? = some m →
    ∃ t, exec (.fRdrxb a b c) s = .next t ∧
      t.ref.sreg.read s.cfg.ADDR_CANINTF = s.ref.sreg.read s.cfg.ADDR_CANINTF &&& ~~~m ∧
      ∀ x, x ≠ s.cfg.ADDR_CANINTF → t.ref.sreg.read x = s.ref.sreg.read x
end

