-- ==== Sys2Proof/Laws/State.lean ====
section
/-! SUPPORT. One lemma for each field and each plain update of the state, true by rfl, so that no later proof unfolds an update. -/

namespace Sys2Proof.Machine

@[simp] theorem emit_en (e : Event) (s : State) : (emit e s).en = s.en := rfl
@[simp] theorem emit_mstr (e : Event) (s : State) : (emit e s).mstr = s.mstr := rfl
@[simp] theorem emit_dord (e : Event) (s : State) : (emit e s).dord = s.dord := rfl
@[simp] theorem emit_cpol (e : Event) (s : State) : (emit e s).cpol = s.cpol := rfl
@[simp] theorem emit_cpha (e : Event) (s : State) : (emit e s).cpha = s.cpha := rfl
@[simp] theorem emit_ie (e : Event) (s : State) : (emit e s).ie = s.ie := rfl
@[simp] theorem emit_ckdiv (e : Event) (s : State) : (emit e s).ckdiv = s.ckdiv := rfl
@[simp] theorem emit_csN (e : Event) (s : State) : (emit e s).csN = s.csN := rfl
@[simp] theorem emit_sck (e : Event) (s : State) : (emit e s).sck = s.sck := rfl
@[simp] theorem emit_mosi (e : Event) (s : State) : (emit e s).mosi = s.mosi := rfl
@[simp] theorem emit_sr (e : Event) (s : State) : (emit e s).sr = s.sr := rfl
@[simp] theorem emit_bitcnt (e : Event) (s : State) : (emit e s).bitcnt = s.bitcnt := rfl
@[simp] theorem emit_busy (e : Event) (s : State) : (emit e s).busy = s.busy := rfl
@[simp] theorem emit_tc (e : Event) (s : State) : (emit e s).tc = s.tc := rfl
@[simp] theorem emit_data (e : Event) (s : State) : (emit e s).data = s.data := rfl
@[simp] theorem emit_fop (e : Event) (s : State) : (emit e s).fop = s.fop := rfl
@[simp] theorem emit_fidx (e : Event) (s : State) : (emit e s).fidx = s.fidx := rfl
@[simp] theorem emit_opa (e : Event) (s : State) : (emit e s).opa = s.opa := rfl
@[simp] theorem emit_opb (e : Event) (s : State) : (emit e s).opb = s.opb := rfl
@[simp] theorem emit_opc (e : Event) (s : State) : (emit e s).opc = s.opc := rfl
@[simp] theorem emit_rsp (e : Event) (s : State) : (emit e s).rsp = s.rsp := rfl
@[simp] theorem emit_trace (e : Event) (s : State) : (emit e s).trace = s.trace ++ [e] := rfl
@[simp] theorem emit_diag (e : Event) (s : State) : (emit e s).diag = s.diag := rfl
@[simp] theorem emit_cfg (e : Event) (s : State) : (emit e s).cfg = s.cfg := rfl
@[simp] theorem emit_inputs (e : Event) (s : State) : (emit e s).inputs = s.inputs := rfl
@[simp] theorem emit_sched (e : Event) (s : State) : (emit e s).sched = s.sched := rfl
@[simp] theorem emit_resetIn (e : Event) (s : State) : (emit e s).resetIn = s.resetIn := rfl
@[simp] theorem emit_slave (e : Event) (s : State) : (emit e s).slave = s.slave := rfl
@[simp] theorem emit_answers (e : Event) (s : State) : (emit e s).answers = s.answers := rfl
@[simp] theorem emit_draws (e : Event) (s : State) : (emit e s).draws = s.draws := rfl
@[simp] theorem emit_ref (e : Event) (s : State) : (emit e s).ref = s.ref := rfl
@[simp] theorem emit_breaches (e : Event) (s : State) : (emit e s).breaches = s.breaches := rfl
@[simp] theorem emit_modeRead (e : Event) (s : State) : (emit e s).modeRead = s.modeRead := rfl
@[simp] theorem emit_ok (e : Event) (s : State) : (emit e s).ok = s.ok := rfl

@[simp] theorem flagsStart_en (s : State) : (flagsStart s).en = s.en := rfl
@[simp] theorem flagsStart_mstr (s : State) : (flagsStart s).mstr = s.mstr := rfl
@[simp] theorem flagsStart_dord (s : State) : (flagsStart s).dord = s.dord := rfl
@[simp] theorem flagsStart_cpol (s : State) : (flagsStart s).cpol = s.cpol := rfl
@[simp] theorem flagsStart_cpha (s : State) : (flagsStart s).cpha = s.cpha := rfl
@[simp] theorem flagsStart_ie (s : State) : (flagsStart s).ie = s.ie := rfl
@[simp] theorem flagsStart_ckdiv (s : State) : (flagsStart s).ckdiv = s.ckdiv := rfl
@[simp] theorem flagsStart_csN (s : State) : (flagsStart s).csN = s.csN := rfl
@[simp] theorem flagsStart_sck (s : State) : (flagsStart s).sck = s.sck := rfl
@[simp] theorem flagsStart_mosi (s : State) : (flagsStart s).mosi = s.mosi := rfl
@[simp] theorem flagsStart_sr (s : State) : (flagsStart s).sr = s.sr := rfl
@[simp] theorem flagsStart_bitcnt (s : State) : (flagsStart s).bitcnt = s.bitcnt := rfl
@[simp] theorem flagsStart_busy (s : State) : (flagsStart s).busy = true := rfl
@[simp] theorem flagsStart_tc (s : State) : (flagsStart s).tc = false := rfl
@[simp] theorem flagsStart_data (s : State) : (flagsStart s).data = s.data := rfl
@[simp] theorem flagsStart_fop (s : State) : (flagsStart s).fop = s.fop := rfl
@[simp] theorem flagsStart_fidx (s : State) : (flagsStart s).fidx = s.fidx := rfl
@[simp] theorem flagsStart_opa (s : State) : (flagsStart s).opa = s.opa := rfl
@[simp] theorem flagsStart_opb (s : State) : (flagsStart s).opb = s.opb := rfl
@[simp] theorem flagsStart_opc (s : State) : (flagsStart s).opc = s.opc := rfl
@[simp] theorem flagsStart_rsp (s : State) : (flagsStart s).rsp = s.rsp := rfl
@[simp] theorem flagsStart_trace (s : State) : (flagsStart s).trace = s.trace := rfl
@[simp] theorem flagsStart_diag (s : State) : (flagsStart s).diag = s.diag := rfl
@[simp] theorem flagsStart_cfg (s : State) : (flagsStart s).cfg = s.cfg := rfl
@[simp] theorem flagsStart_inputs (s : State) : (flagsStart s).inputs = s.inputs := rfl
@[simp] theorem flagsStart_sched (s : State) : (flagsStart s).sched = s.sched := rfl
@[simp] theorem flagsStart_resetIn (s : State) : (flagsStart s).resetIn = s.resetIn := rfl
@[simp] theorem flagsStart_slave (s : State) : (flagsStart s).slave = s.slave := rfl
@[simp] theorem flagsStart_answers (s : State) : (flagsStart s).answers = s.answers := rfl
@[simp] theorem flagsStart_draws (s : State) : (flagsStart s).draws = s.draws := rfl
@[simp] theorem flagsStart_ref (s : State) : (flagsStart s).ref = s.ref := rfl
@[simp] theorem flagsStart_breaches (s : State) : (flagsStart s).breaches = s.breaches := rfl
@[simp] theorem flagsStart_modeRead (s : State) : (flagsStart s).modeRead = s.modeRead := rfl
@[simp] theorem flagsStart_ok (s : State) : (flagsStart s).ok = s.ok := rfl

@[simp] theorem flagsComplete_en (s : State) : (flagsComplete s).en = s.en := rfl
@[simp] theorem flagsComplete_mstr (s : State) : (flagsComplete s).mstr = s.mstr := rfl
@[simp] theorem flagsComplete_dord (s : State) : (flagsComplete s).dord = s.dord := rfl
@[simp] theorem flagsComplete_cpol (s : State) : (flagsComplete s).cpol = s.cpol := rfl
@[simp] theorem flagsComplete_cpha (s : State) : (flagsComplete s).cpha = s.cpha := rfl
@[simp] theorem flagsComplete_ie (s : State) : (flagsComplete s).ie = s.ie := rfl
@[simp] theorem flagsComplete_ckdiv (s : State) : (flagsComplete s).ckdiv = s.ckdiv := rfl
@[simp] theorem flagsComplete_csN (s : State) : (flagsComplete s).csN = s.csN := rfl
@[simp] theorem flagsComplete_sck (s : State) : (flagsComplete s).sck = s.sck := rfl
@[simp] theorem flagsComplete_mosi (s : State) : (flagsComplete s).mosi = s.mosi := rfl
@[simp] theorem flagsComplete_sr (s : State) : (flagsComplete s).sr = s.sr := rfl
@[simp] theorem flagsComplete_bitcnt (s : State) : (flagsComplete s).bitcnt = s.bitcnt := rfl
@[simp] theorem flagsComplete_busy (s : State) : (flagsComplete s).busy = false := rfl
@[simp] theorem flagsComplete_tc (s : State) : (flagsComplete s).tc = true := rfl
@[simp] theorem flagsComplete_data (s : State) : (flagsComplete s).data = s.data := rfl
@[simp] theorem flagsComplete_fop (s : State) : (flagsComplete s).fop = s.fop := rfl
@[simp] theorem flagsComplete_fidx (s : State) : (flagsComplete s).fidx = s.fidx := rfl
@[simp] theorem flagsComplete_opa (s : State) : (flagsComplete s).opa = s.opa := rfl
@[simp] theorem flagsComplete_opb (s : State) : (flagsComplete s).opb = s.opb := rfl
@[simp] theorem flagsComplete_opc (s : State) : (flagsComplete s).opc = s.opc := rfl
@[simp] theorem flagsComplete_rsp (s : State) : (flagsComplete s).rsp = s.rsp := rfl
@[simp] theorem flagsComplete_trace (s : State) : (flagsComplete s).trace = s.trace := rfl
@[simp] theorem flagsComplete_diag (s : State) : (flagsComplete s).diag = s.diag := rfl
@[simp] theorem flagsComplete_cfg (s : State) : (flagsComplete s).cfg = s.cfg := rfl
@[simp] theorem flagsComplete_inputs (s : State) : (flagsComplete s).inputs = s.inputs := rfl
@[simp] theorem flagsComplete_sched (s : State) : (flagsComplete s).sched = s.sched := rfl
@[simp] theorem flagsComplete_resetIn (s : State) : (flagsComplete s).resetIn = s.resetIn := rfl
@[simp] theorem flagsComplete_slave (s : State) : (flagsComplete s).slave = s.slave := rfl
@[simp] theorem flagsComplete_answers (s : State) : (flagsComplete s).answers = s.answers := rfl
@[simp] theorem flagsComplete_draws (s : State) : (flagsComplete s).draws = s.draws := rfl
@[simp] theorem flagsComplete_ref (s : State) : (flagsComplete s).ref = s.ref := rfl
@[simp] theorem flagsComplete_breaches (s : State) : (flagsComplete s).breaches = s.breaches := rfl
@[simp] theorem flagsComplete_modeRead (s : State) : (flagsComplete s).modeRead = s.modeRead := rfl
@[simp] theorem flagsComplete_ok (s : State) : (flagsComplete s).ok = s.ok := rfl

@[simp] theorem flagsTaken_en (s : State) : (flagsTaken s).en = s.en := rfl
@[simp] theorem flagsTaken_mstr (s : State) : (flagsTaken s).mstr = s.mstr := rfl
@[simp] theorem flagsTaken_dord (s : State) : (flagsTaken s).dord = s.dord := rfl
@[simp] theorem flagsTaken_cpol (s : State) : (flagsTaken s).cpol = s.cpol := rfl
@[simp] theorem flagsTaken_cpha (s : State) : (flagsTaken s).cpha = s.cpha := rfl
@[simp] theorem flagsTaken_ie (s : State) : (flagsTaken s).ie = s.ie := rfl
@[simp] theorem flagsTaken_ckdiv (s : State) : (flagsTaken s).ckdiv = s.ckdiv := rfl
@[simp] theorem flagsTaken_csN (s : State) : (flagsTaken s).csN = s.csN := rfl
@[simp] theorem flagsTaken_sck (s : State) : (flagsTaken s).sck = s.sck := rfl
@[simp] theorem flagsTaken_mosi (s : State) : (flagsTaken s).mosi = s.mosi := rfl
@[simp] theorem flagsTaken_sr (s : State) : (flagsTaken s).sr = s.sr := rfl
@[simp] theorem flagsTaken_bitcnt (s : State) : (flagsTaken s).bitcnt = s.bitcnt := rfl
@[simp] theorem flagsTaken_busy (s : State) : (flagsTaken s).busy = s.busy := rfl
@[simp] theorem flagsTaken_tc (s : State) : (flagsTaken s).tc = false := rfl
@[simp] theorem flagsTaken_data (s : State) : (flagsTaken s).data = s.data := rfl
@[simp] theorem flagsTaken_fop (s : State) : (flagsTaken s).fop = s.fop := rfl
@[simp] theorem flagsTaken_fidx (s : State) : (flagsTaken s).fidx = s.fidx := rfl
@[simp] theorem flagsTaken_opa (s : State) : (flagsTaken s).opa = s.opa := rfl
@[simp] theorem flagsTaken_opb (s : State) : (flagsTaken s).opb = s.opb := rfl
@[simp] theorem flagsTaken_opc (s : State) : (flagsTaken s).opc = s.opc := rfl
@[simp] theorem flagsTaken_rsp (s : State) : (flagsTaken s).rsp = s.rsp := rfl
@[simp] theorem flagsTaken_trace (s : State) : (flagsTaken s).trace = s.trace := rfl
@[simp] theorem flagsTaken_diag (s : State) : (flagsTaken s).diag = s.diag := rfl
@[simp] theorem flagsTaken_cfg (s : State) : (flagsTaken s).cfg = s.cfg := rfl
@[simp] theorem flagsTaken_inputs (s : State) : (flagsTaken s).inputs = s.inputs := rfl
@[simp] theorem flagsTaken_sched (s : State) : (flagsTaken s).sched = s.sched := rfl
@[simp] theorem flagsTaken_resetIn (s : State) : (flagsTaken s).resetIn = s.resetIn := rfl
@[simp] theorem flagsTaken_slave (s : State) : (flagsTaken s).slave = s.slave := rfl
@[simp] theorem flagsTaken_answers (s : State) : (flagsTaken s).answers = s.answers := rfl
@[simp] theorem flagsTaken_draws (s : State) : (flagsTaken s).draws = s.draws := rfl
@[simp] theorem flagsTaken_ref (s : State) : (flagsTaken s).ref = s.ref := rfl
@[simp] theorem flagsTaken_breaches (s : State) : (flagsTaken s).breaches = s.breaches := rfl
@[simp] theorem flagsTaken_modeRead (s : State) : (flagsTaken s).modeRead = s.modeRead := rfl
@[simp] theorem flagsTaken_ok (s : State) : (flagsTaken s).ok = s.ok := rfl

@[simp] theorem takeSample_en (m : Bool) (s : State) : (takeSample m s).en = s.en := rfl
@[simp] theorem takeSample_mstr (m : Bool) (s : State) : (takeSample m s).mstr = s.mstr := rfl
@[simp] theorem takeSample_dord (m : Bool) (s : State) : (takeSample m s).dord = s.dord := rfl
@[simp] theorem takeSample_cpol (m : Bool) (s : State) : (takeSample m s).cpol = s.cpol := rfl
@[simp] theorem takeSample_cpha (m : Bool) (s : State) : (takeSample m s).cpha = s.cpha := rfl
@[simp] theorem takeSample_ie (m : Bool) (s : State) : (takeSample m s).ie = s.ie := rfl
@[simp] theorem takeSample_ckdiv (m : Bool) (s : State) : (takeSample m s).ckdiv = s.ckdiv := rfl
@[simp] theorem takeSample_csN (m : Bool) (s : State) : (takeSample m s).csN = s.csN := rfl
@[simp] theorem takeSample_sck (m : Bool) (s : State) : (takeSample m s).sck = some true := rfl
@[simp] theorem takeSample_mosi (m : Bool) (s : State) : (takeSample m s).mosi = s.mosi := rfl
@[simp] theorem takeSample_sr (m : Bool) (s : State) : (takeSample m s).sr = shiftIn s.sr m := rfl
@[simp] theorem takeSample_bitcnt (m : Bool) (s : State) : (takeSample m s).bitcnt = s.bitcnt + 1 := rfl
@[simp] theorem takeSample_busy (m : Bool) (s : State) : (takeSample m s).busy = s.busy := rfl
@[simp] theorem takeSample_tc (m : Bool) (s : State) : (takeSample m s).tc = s.tc := rfl
@[simp] theorem takeSample_data (m : Bool) (s : State) : (takeSample m s).data = s.data := rfl
@[simp] theorem takeSample_fop (m : Bool) (s : State) : (takeSample m s).fop = s.fop := rfl
@[simp] theorem takeSample_fidx (m : Bool) (s : State) : (takeSample m s).fidx = s.fidx := rfl
@[simp] theorem takeSample_opa (m : Bool) (s : State) : (takeSample m s).opa = s.opa := rfl
@[simp] theorem takeSample_opb (m : Bool) (s : State) : (takeSample m s).opb = s.opb := rfl
@[simp] theorem takeSample_opc (m : Bool) (s : State) : (takeSample m s).opc = s.opc := rfl
@[simp] theorem takeSample_rsp (m : Bool) (s : State) : (takeSample m s).rsp = s.rsp := rfl
@[simp] theorem takeSample_trace (m : Bool) (s : State) : (takeSample m s).trace = s.trace ++ [.sckRise m] := rfl
@[simp] theorem takeSample_diag (m : Bool) (s : State) : (takeSample m s).diag = s.diag := rfl
@[simp] theorem takeSample_cfg (m : Bool) (s : State) : (takeSample m s).cfg = s.cfg := rfl
@[simp] theorem takeSample_inputs (m : Bool) (s : State) : (takeSample m s).inputs = s.inputs := rfl
@[simp] theorem takeSample_sched (m : Bool) (s : State) : (takeSample m s).sched = s.sched := rfl
@[simp] theorem takeSample_resetIn (m : Bool) (s : State) : (takeSample m s).resetIn = s.resetIn := rfl
@[simp] theorem takeSample_slave (m : Bool) (s : State) : (takeSample m s).slave = s.slave := rfl
@[simp] theorem takeSample_answers (m : Bool) (s : State) : (takeSample m s).answers = s.answers := rfl
@[simp] theorem takeSample_draws (m : Bool) (s : State) : (takeSample m s).draws = s.draws := rfl
@[simp] theorem takeSample_ref (m : Bool) (s : State) : (takeSample m s).ref = s.ref := rfl
@[simp] theorem takeSample_breaches (m : Bool) (s : State) : (takeSample m s).breaches = s.breaches := rfl
@[simp] theorem takeSample_modeRead (m : Bool) (s : State) : (takeSample m s).modeRead = s.modeRead := rfl
@[simp] theorem takeSample_ok (m : Bool) (s : State) : (takeSample m s).ok = s.ok := rfl

@[simp] theorem accept_en (f : Fop) (a b c : Byte) (s : State) : (accept f a b c s).en = s.en := rfl
@[simp] theorem accept_mstr (f : Fop) (a b c : Byte) (s : State) : (accept f a b c s).mstr = s.mstr := rfl
@[simp] theorem accept_dord (f : Fop) (a b c : Byte) (s : State) : (accept f a b c s).dord = s.dord := rfl
@[simp] theorem accept_cpol (f : Fop) (a b c : Byte) (s : State) : (accept f a b c s).cpol = s.cpol := rfl
@[simp] theorem accept_cpha (f : Fop) (a b c : Byte) (s : State) : (accept f a b c s).cpha = s.cpha := rfl
@[simp] theorem accept_ie (f : Fop) (a b c : Byte) (s : State) : (accept f a b c s).ie = s.ie := rfl
@[simp] theorem accept_ckdiv (f : Fop) (a b c : Byte) (s : State) : (accept f a b c s).ckdiv = s.ckdiv := rfl
@[simp] theorem accept_csN (f : Fop) (a b c : Byte) (s : State) : (accept f a b c s).csN = s.csN := rfl
@[simp] theorem accept_sck (f : Fop) (a b c : Byte) (s : State) : (accept f a b c s).sck = s.sck := rfl
@[simp] theorem accept_mosi (f : Fop) (a b c : Byte) (s : State) : (accept f a b c s).mosi = s.mosi := rfl
@[simp] theorem accept_sr (f : Fop) (a b c : Byte) (s : State) : (accept f a b c s).sr = s.sr := rfl
@[simp] theorem accept_bitcnt (f : Fop) (a b c : Byte) (s : State) : (accept f a b c s).bitcnt = s.bitcnt := rfl
@[simp] theorem accept_busy (f : Fop) (a b c : Byte) (s : State) : (accept f a b c s).busy = s.busy := rfl
@[simp] theorem accept_tc (f : Fop) (a b c : Byte) (s : State) : (accept f a b c s).tc = s.tc := rfl
@[simp] theorem accept_data (f : Fop) (a b c : Byte) (s : State) : (accept f a b c s).data = s.data := rfl
@[simp] theorem accept_fop (f : Fop) (a b c : Byte) (s : State) : (accept f a b c s).fop = f := rfl
@[simp] theorem accept_fidx (f : Fop) (a b c : Byte) (s : State) : (accept f a b c s).fidx = 0 := rfl
@[simp] theorem accept_opa (f : Fop) (a b c : Byte) (s : State) : (accept f a b c s).opa = a := rfl
@[simp] theorem accept_opb (f : Fop) (a b c : Byte) (s : State) : (accept f a b c s).opb = b := rfl
@[simp] theorem accept_opc (f : Fop) (a b c : Byte) (s : State) : (accept f a b c s).opc = c := rfl
@[simp] theorem accept_rsp (f : Fop) (a b c : Byte) (s : State) : (accept f a b c s).rsp = s.rsp := rfl
@[simp] theorem accept_trace (f : Fop) (a b c : Byte) (s : State) : (accept f a b c s).trace = s.trace := rfl
@[simp] theorem accept_diag (f : Fop) (a b c : Byte) (s : State) : (accept f a b c s).diag = s.diag := rfl
@[simp] theorem accept_cfg (f : Fop) (a b c : Byte) (s : State) : (accept f a b c s).cfg = s.cfg := rfl
@[simp] theorem accept_inputs (f : Fop) (a b c : Byte) (s : State) : (accept f a b c s).inputs = s.inputs := rfl
@[simp] theorem accept_sched (f : Fop) (a b c : Byte) (s : State) : (accept f a b c s).sched = s.sched := rfl
@[simp] theorem accept_resetIn (f : Fop) (a b c : Byte) (s : State) : (accept f a b c s).resetIn = s.resetIn := rfl
@[simp] theorem accept_slave (f : Fop) (a b c : Byte) (s : State) : (accept f a b c s).slave = s.slave := rfl
@[simp] theorem accept_answers (f : Fop) (a b c : Byte) (s : State) : (accept f a b c s).answers = s.answers := rfl
@[simp] theorem accept_draws (f : Fop) (a b c : Byte) (s : State) : (accept f a b c s).draws = s.draws := rfl
@[simp] theorem accept_ref (f : Fop) (a b c : Byte) (s : State) : (accept f a b c s).ref = s.ref := rfl
@[simp] theorem accept_breaches (f : Fop) (a b c : Byte) (s : State) : (accept f a b c s).breaches = s.breaches := rfl
@[simp] theorem accept_modeRead (f : Fop) (a b c : Byte) (s : State) : (accept f a b c s).modeRead = if ReadsMode s.cfg f a then none else s.modeRead := rfl
@[simp] theorem accept_ok (f : Fop) (a b c : Byte) (s : State) : (accept f a b c s).ok = s.ok := rfl

@[simp] theorem respond_en (d : RespData) (s : State) : (respond d s).en = s.en := rfl
@[simp] theorem respond_mstr (d : RespData) (s : State) : (respond d s).mstr = s.mstr := rfl
@[simp] theorem respond_dord (d : RespData) (s : State) : (respond d s).dord = s.dord := rfl
@[simp] theorem respond_cpol (d : RespData) (s : State) : (respond d s).cpol = s.cpol := rfl
@[simp] theorem respond_cpha (d : RespData) (s : State) : (respond d s).cpha = s.cpha := rfl
@[simp] theorem respond_ie (d : RespData) (s : State) : (respond d s).ie = s.ie := rfl
@[simp] theorem respond_ckdiv (d : RespData) (s : State) : (respond d s).ckdiv = s.ckdiv := rfl
@[simp] theorem respond_csN (d : RespData) (s : State) : (respond d s).csN = s.csN := rfl
@[simp] theorem respond_sck (d : RespData) (s : State) : (respond d s).sck = s.sck := rfl
@[simp] theorem respond_mosi (d : RespData) (s : State) : (respond d s).mosi = s.mosi := rfl
@[simp] theorem respond_sr (d : RespData) (s : State) : (respond d s).sr = s.sr := rfl
@[simp] theorem respond_bitcnt (d : RespData) (s : State) : (respond d s).bitcnt = s.bitcnt := rfl
@[simp] theorem respond_busy (d : RespData) (s : State) : (respond d s).busy = s.busy := rfl
@[simp] theorem respond_tc (d : RespData) (s : State) : (respond d s).tc = s.tc := rfl
@[simp] theorem respond_data (d : RespData) (s : State) : (respond d s).data = s.data := rfl
@[simp] theorem respond_fop (d : RespData) (s : State) : (respond d s).fop = .idle := rfl
@[simp] theorem respond_fidx (d : RespData) (s : State) : (respond d s).fidx = 0 := rfl
@[simp] theorem respond_opa (d : RespData) (s : State) : (respond d s).opa = s.opa := rfl
@[simp] theorem respond_opb (d : RespData) (s : State) : (respond d s).opb = s.opb := rfl
@[simp] theorem respond_opc (d : RespData) (s : State) : (respond d s).opc = s.opc := rfl
@[simp] theorem respond_rsp (d : RespData) (s : State) : (respond d s).rsp = okWord d := rfl
@[simp] theorem respond_trace (d : RespData) (s : State) : (respond d s).trace = s.trace := rfl
@[simp] theorem respond_diag (d : RespData) (s : State) : (respond d s).diag = s.diag := rfl
@[simp] theorem respond_cfg (d : RespData) (s : State) : (respond d s).cfg = s.cfg := rfl
@[simp] theorem respond_inputs (d : RespData) (s : State) : (respond d s).inputs = s.inputs := rfl
@[simp] theorem respond_sched (d : RespData) (s : State) : (respond d s).sched = s.sched := rfl
@[simp] theorem respond_resetIn (d : RespData) (s : State) : (respond d s).resetIn = s.resetIn := rfl
@[simp] theorem respond_slave (d : RespData) (s : State) : (respond d s).slave = s.slave := rfl
@[simp] theorem respond_answers (d : RespData) (s : State) : (respond d s).answers = s.answers := rfl
@[simp] theorem respond_draws (d : RespData) (s : State) : (respond d s).draws = s.draws := rfl
@[simp] theorem respond_ref (d : RespData) (s : State) : (respond d s).ref = s.ref := rfl
@[simp] theorem respond_breaches (d : RespData) (s : State) : (respond d s).breaches = s.breaches := rfl
@[simp] theorem respond_modeRead (d : RespData) (s : State) : (respond d s).modeRead = s.modeRead := rfl
@[simp] theorem respond_ok (d : RespData) (s : State) : (respond d s).ok = s.ok := rfl

@[simp] theorem refuse_en (s : State) : (refuse s).en = s.en := rfl
@[simp] theorem refuse_mstr (s : State) : (refuse s).mstr = s.mstr := rfl
@[simp] theorem refuse_dord (s : State) : (refuse s).dord = s.dord := rfl
@[simp] theorem refuse_cpol (s : State) : (refuse s).cpol = s.cpol := rfl
@[simp] theorem refuse_cpha (s : State) : (refuse s).cpha = s.cpha := rfl
@[simp] theorem refuse_ie (s : State) : (refuse s).ie = s.ie := rfl
@[simp] theorem refuse_ckdiv (s : State) : (refuse s).ckdiv = s.ckdiv := rfl
@[simp] theorem refuse_csN (s : State) : (refuse s).csN = s.csN := rfl
@[simp] theorem refuse_sck (s : State) : (refuse s).sck = s.sck := rfl
@[simp] theorem refuse_mosi (s : State) : (refuse s).mosi = s.mosi := rfl
@[simp] theorem refuse_sr (s : State) : (refuse s).sr = s.sr := rfl
@[simp] theorem refuse_bitcnt (s : State) : (refuse s).bitcnt = s.bitcnt := rfl
@[simp] theorem refuse_busy (s : State) : (refuse s).busy = s.busy := rfl
@[simp] theorem refuse_tc (s : State) : (refuse s).tc = s.tc := rfl
@[simp] theorem refuse_data (s : State) : (refuse s).data = s.data := rfl
@[simp] theorem refuse_fop (s : State) : (refuse s).fop = .idle := rfl
@[simp] theorem refuse_fidx (s : State) : (refuse s).fidx = 0 := rfl
@[simp] theorem refuse_opa (s : State) : (refuse s).opa = s.opa := rfl
@[simp] theorem refuse_opb (s : State) : (refuse s).opb = s.opb := rfl
@[simp] theorem refuse_opc (s : State) : (refuse s).opc = s.opc := rfl
@[simp] theorem refuse_rsp (s : State) : (refuse s).rsp = 0x8000 := rfl
@[simp] theorem refuse_trace (s : State) : (refuse s).trace = s.trace := rfl
@[simp] theorem refuse_diag (s : State) : (refuse s).diag = s.diag := rfl
@[simp] theorem refuse_cfg (s : State) : (refuse s).cfg = s.cfg := rfl
@[simp] theorem refuse_inputs (s : State) : (refuse s).inputs = s.inputs := rfl
@[simp] theorem refuse_sched (s : State) : (refuse s).sched = s.sched := rfl
@[simp] theorem refuse_resetIn (s : State) : (refuse s).resetIn = s.resetIn := rfl
@[simp] theorem refuse_slave (s : State) : (refuse s).slave = s.slave := rfl
@[simp] theorem refuse_answers (s : State) : (refuse s).answers = s.answers := rfl
@[simp] theorem refuse_draws (s : State) : (refuse s).draws = s.draws := rfl
@[simp] theorem refuse_ref (s : State) : (refuse s).ref = s.ref := rfl
@[simp] theorem refuse_breaches (s : State) : (refuse s).breaches = s.breaches := rfl
@[simp] theorem refuse_modeRead (s : State) : (refuse s).modeRead = s.modeRead := rfl
@[simp] theorem refuse_ok (s : State) : (refuse s).ok = s.ok := rfl

@[simp] theorem nextPrim_en (s : State) : (nextPrim s).en = s.en := rfl
@[simp] theorem nextPrim_mstr (s : State) : (nextPrim s).mstr = s.mstr := rfl
@[simp] theorem nextPrim_dord (s : State) : (nextPrim s).dord = s.dord := rfl
@[simp] theorem nextPrim_cpol (s : State) : (nextPrim s).cpol = s.cpol := rfl
@[simp] theorem nextPrim_cpha (s : State) : (nextPrim s).cpha = s.cpha := rfl
@[simp] theorem nextPrim_ie (s : State) : (nextPrim s).ie = s.ie := rfl
@[simp] theorem nextPrim_ckdiv (s : State) : (nextPrim s).ckdiv = s.ckdiv := rfl
@[simp] theorem nextPrim_csN (s : State) : (nextPrim s).csN = s.csN := rfl
@[simp] theorem nextPrim_sck (s : State) : (nextPrim s).sck = s.sck := rfl
@[simp] theorem nextPrim_mosi (s : State) : (nextPrim s).mosi = s.mosi := rfl
@[simp] theorem nextPrim_sr (s : State) : (nextPrim s).sr = s.sr := rfl
@[simp] theorem nextPrim_bitcnt (s : State) : (nextPrim s).bitcnt = s.bitcnt := rfl
@[simp] theorem nextPrim_busy (s : State) : (nextPrim s).busy = s.busy := rfl
@[simp] theorem nextPrim_tc (s : State) : (nextPrim s).tc = s.tc := rfl
@[simp] theorem nextPrim_data (s : State) : (nextPrim s).data = s.data := rfl
@[simp] theorem nextPrim_fop (s : State) : (nextPrim s).fop = s.fop := rfl
@[simp] theorem nextPrim_fidx (s : State) : (nextPrim s).fidx = s.fidx + 1 := rfl
@[simp] theorem nextPrim_opa (s : State) : (nextPrim s).opa = s.opa := rfl
@[simp] theorem nextPrim_opb (s : State) : (nextPrim s).opb = s.opb := rfl
@[simp] theorem nextPrim_opc (s : State) : (nextPrim s).opc = s.opc := rfl
@[simp] theorem nextPrim_rsp (s : State) : (nextPrim s).rsp = s.rsp := rfl
@[simp] theorem nextPrim_trace (s : State) : (nextPrim s).trace = s.trace := rfl
@[simp] theorem nextPrim_diag (s : State) : (nextPrim s).diag = s.diag := rfl
@[simp] theorem nextPrim_cfg (s : State) : (nextPrim s).cfg = s.cfg := rfl
@[simp] theorem nextPrim_inputs (s : State) : (nextPrim s).inputs = s.inputs := rfl
@[simp] theorem nextPrim_sched (s : State) : (nextPrim s).sched = s.sched := rfl
@[simp] theorem nextPrim_resetIn (s : State) : (nextPrim s).resetIn = s.resetIn := rfl
@[simp] theorem nextPrim_slave (s : State) : (nextPrim s).slave = s.slave := rfl
@[simp] theorem nextPrim_answers (s : State) : (nextPrim s).answers = s.answers := rfl
@[simp] theorem nextPrim_draws (s : State) : (nextPrim s).draws = s.draws := rfl
@[simp] theorem nextPrim_ref (s : State) : (nextPrim s).ref = s.ref := rfl
@[simp] theorem nextPrim_breaches (s : State) : (nextPrim s).breaches = s.breaches := rfl
@[simp] theorem nextPrim_modeRead (s : State) : (nextPrim s).modeRead = s.modeRead := rfl
@[simp] theorem nextPrim_ok (s : State) : (nextPrim s).ok = s.ok := rfl

@[simp] theorem noteMode_en (s : State) : (noteMode s).en = s.en := rfl
@[simp] theorem noteMode_mstr (s : State) : (noteMode s).mstr = s.mstr := rfl
@[simp] theorem noteMode_dord (s : State) : (noteMode s).dord = s.dord := rfl
@[simp] theorem noteMode_cpol (s : State) : (noteMode s).cpol = s.cpol := rfl
@[simp] theorem noteMode_cpha (s : State) : (noteMode s).cpha = s.cpha := rfl
@[simp] theorem noteMode_ie (s : State) : (noteMode s).ie = s.ie := rfl
@[simp] theorem noteMode_ckdiv (s : State) : (noteMode s).ckdiv = s.ckdiv := rfl
@[simp] theorem noteMode_csN (s : State) : (noteMode s).csN = s.csN := rfl
@[simp] theorem noteMode_sck (s : State) : (noteMode s).sck = s.sck := rfl
@[simp] theorem noteMode_mosi (s : State) : (noteMode s).mosi = s.mosi := rfl
@[simp] theorem noteMode_sr (s : State) : (noteMode s).sr = s.sr := rfl
@[simp] theorem noteMode_bitcnt (s : State) : (noteMode s).bitcnt = s.bitcnt := rfl
@[simp] theorem noteMode_busy (s : State) : (noteMode s).busy = s.busy := rfl
@[simp] theorem noteMode_tc (s : State) : (noteMode s).tc = s.tc := rfl
@[simp] theorem noteMode_data (s : State) : (noteMode s).data = s.data := rfl
@[simp] theorem noteMode_fop (s : State) : (noteMode s).fop = s.fop := rfl
@[simp] theorem noteMode_fidx (s : State) : (noteMode s).fidx = s.fidx := rfl
@[simp] theorem noteMode_opa (s : State) : (noteMode s).opa = s.opa := rfl
@[simp] theorem noteMode_opb (s : State) : (noteMode s).opb = s.opb := rfl
@[simp] theorem noteMode_opc (s : State) : (noteMode s).opc = s.opc := rfl
@[simp] theorem noteMode_rsp (s : State) : (noteMode s).rsp = s.rsp := rfl
@[simp] theorem noteMode_trace (s : State) : (noteMode s).trace = s.trace := rfl
@[simp] theorem noteMode_diag (s : State) : (noteMode s).diag = s.diag := rfl
@[simp] theorem noteMode_cfg (s : State) : (noteMode s).cfg = s.cfg := rfl
@[simp] theorem noteMode_inputs (s : State) : (noteMode s).inputs = s.inputs := rfl
@[simp] theorem noteMode_sched (s : State) : (noteMode s).sched = s.sched := rfl
@[simp] theorem noteMode_resetIn (s : State) : (noteMode s).resetIn = s.resetIn := rfl
@[simp] theorem noteMode_slave (s : State) : (noteMode s).slave = s.slave := rfl
@[simp] theorem noteMode_answers (s : State) : (noteMode s).answers = s.answers := rfl
@[simp] theorem noteMode_draws (s : State) : (noteMode s).draws = s.draws := rfl
@[simp] theorem noteMode_ref (s : State) : (noteMode s).ref = s.ref := rfl
@[simp] theorem noteMode_breaches (s : State) : (noteMode s).breaches = s.breaches := rfl
@[simp] theorem noteMode_modeRead (s : State) : (noteMode s).modeRead = if ReadsMode s.cfg s.fop s.opa then some (s.rsp.setWidth 8) else s.modeRead := rfl
@[simp] theorem noteMode_ok (s : State) : (noteMode s).ok = s.ok := rfl

@[simp] theorem spend_en (s : State) : (spend s).en = s.en := rfl
@[simp] theorem spend_mstr (s : State) : (spend s).mstr = s.mstr := rfl
@[simp] theorem spend_dord (s : State) : (spend s).dord = s.dord := rfl
@[simp] theorem spend_cpol (s : State) : (spend s).cpol = s.cpol := rfl
@[simp] theorem spend_cpha (s : State) : (spend s).cpha = s.cpha := rfl
@[simp] theorem spend_ie (s : State) : (spend s).ie = s.ie := rfl
@[simp] theorem spend_ckdiv (s : State) : (spend s).ckdiv = s.ckdiv := rfl
@[simp] theorem spend_csN (s : State) : (spend s).csN = s.csN := rfl
@[simp] theorem spend_sck (s : State) : (spend s).sck = s.sck := rfl
@[simp] theorem spend_mosi (s : State) : (spend s).mosi = s.mosi := rfl
@[simp] theorem spend_sr (s : State) : (spend s).sr = s.sr := rfl
@[simp] theorem spend_bitcnt (s : State) : (spend s).bitcnt = s.bitcnt := rfl
@[simp] theorem spend_busy (s : State) : (spend s).busy = s.busy := rfl
@[simp] theorem spend_tc (s : State) : (spend s).tc = s.tc := rfl
@[simp] theorem spend_data (s : State) : (spend s).data = s.data := rfl
@[simp] theorem spend_fop (s : State) : (spend s).fop = s.fop := rfl
@[simp] theorem spend_fidx (s : State) : (spend s).fidx = s.fidx := rfl
@[simp] theorem spend_opa (s : State) : (spend s).opa = s.opa := rfl
@[simp] theorem spend_opb (s : State) : (spend s).opb = s.opb := rfl
@[simp] theorem spend_opc (s : State) : (spend s).opc = s.opc := rfl
@[simp] theorem spend_rsp (s : State) : (spend s).rsp = s.rsp := rfl
@[simp] theorem spend_trace (s : State) : (spend s).trace = s.trace := rfl
@[simp] theorem spend_diag (s : State) : (spend s).diag = s.diag := rfl
@[simp] theorem spend_cfg (s : State) : (spend s).cfg = s.cfg := rfl
@[simp] theorem spend_inputs (s : State) : (spend s).inputs = s.inputs := rfl
@[simp] theorem spend_sched (s : State) : (spend s).sched = s.sched.map (· - 1) := rfl
@[simp] theorem spend_resetIn (s : State) : (spend s).resetIn = s.resetIn := rfl
@[simp] theorem spend_slave (s : State) : (spend s).slave = s.slave := rfl
@[simp] theorem spend_answers (s : State) : (spend s).answers = s.answers := rfl
@[simp] theorem spend_draws (s : State) : (spend s).draws = s.draws := rfl
@[simp] theorem spend_ref (s : State) : (spend s).ref = s.ref := rfl
@[simp] theorem spend_breaches (s : State) : (spend s).breaches = s.breaches := rfl
@[simp] theorem spend_modeRead (s : State) : (spend s).modeRead = s.modeRead := rfl
@[simp] theorem spend_ok (s : State) : (spend s).ok = s.ok := rfl

@[simp] theorem countDown_en (s : State) : (countDown s).en = s.en := rfl
@[simp] theorem countDown_mstr (s : State) : (countDown s).mstr = s.mstr := rfl
@[simp] theorem countDown_dord (s : State) : (countDown s).dord = s.dord := rfl
@[simp] theorem countDown_cpol (s : State) : (countDown s).cpol = s.cpol := rfl
@[simp] theorem countDown_cpha (s : State) : (countDown s).cpha = s.cpha := rfl
@[simp] theorem countDown_ie (s : State) : (countDown s).ie = s.ie := rfl
@[simp] theorem countDown_ckdiv (s : State) : (countDown s).ckdiv = s.ckdiv := rfl
@[simp] theorem countDown_csN (s : State) : (countDown s).csN = s.csN := rfl
@[simp] theorem countDown_sck (s : State) : (countDown s).sck = s.sck := rfl
@[simp] theorem countDown_mosi (s : State) : (countDown s).mosi = s.mosi := rfl
@[simp] theorem countDown_sr (s : State) : (countDown s).sr = s.sr := rfl
@[simp] theorem countDown_bitcnt (s : State) : (countDown s).bitcnt = s.bitcnt := rfl
@[simp] theorem countDown_busy (s : State) : (countDown s).busy = s.busy := rfl
@[simp] theorem countDown_tc (s : State) : (countDown s).tc = s.tc := rfl
@[simp] theorem countDown_data (s : State) : (countDown s).data = s.data := rfl
@[simp] theorem countDown_fop (s : State) : (countDown s).fop = s.fop := rfl
@[simp] theorem countDown_fidx (s : State) : (countDown s).fidx = s.fidx := rfl
@[simp] theorem countDown_opa (s : State) : (countDown s).opa = s.opa := rfl
@[simp] theorem countDown_opb (s : State) : (countDown s).opb = s.opb := rfl
@[simp] theorem countDown_opc (s : State) : (countDown s).opc = s.opc := rfl
@[simp] theorem countDown_rsp (s : State) : (countDown s).rsp = s.rsp := rfl
@[simp] theorem countDown_trace (s : State) : (countDown s).trace = s.trace := rfl
@[simp] theorem countDown_diag (s : State) : (countDown s).diag = s.diag := rfl
@[simp] theorem countDown_cfg (s : State) : (countDown s).cfg = s.cfg := rfl
@[simp] theorem countDown_inputs (s : State) : (countDown s).inputs = s.inputs := rfl
@[simp] theorem countDown_sched (s : State) : (countDown s).sched = s.sched := rfl
@[simp] theorem countDown_resetIn (s : State) : (countDown s).resetIn = s.resetIn.map (· - 1) := rfl
@[simp] theorem countDown_slave (s : State) : (countDown s).slave = s.slave := rfl
@[simp] theorem countDown_answers (s : State) : (countDown s).answers = s.answers := rfl
@[simp] theorem countDown_draws (s : State) : (countDown s).draws = s.draws := rfl
@[simp] theorem countDown_ref (s : State) : (countDown s).ref = s.ref := rfl
@[simp] theorem countDown_breaches (s : State) : (countDown s).breaches = s.breaches := rfl
@[simp] theorem countDown_modeRead (s : State) : (countDown s).modeRead = s.modeRead := rfl
@[simp] theorem countDown_ok (s : State) : (countDown s).ok = s.ok := rfl

end Sys2Proof.Machine
end

