-- ==== Sys2Proof/Laws/Engine.lean ====
section
/-! SUPPORT. The shift engine: what each edge does when it is enabled, one bit, and a whole exchange (40_transport.md R126). -/

namespace Sys2Proof.Machine

/-- Without a reset to come there is nothing to count down. -/
theorem countDown_none {s : State} (h : s.resetIn = none) : countDown s = s := by
  cases s
  simp only at h
  subst h
  rfl

/-- Under EngineFair no step of the engine is used up. -/
theorem spend_none {s : State} (h : s.sched = none) : spend s = s := by
  cases s
  simp only at h
  subst h
  rfl

/-- With no reset due a tick advances the command in progress. -/
theorem tick_running {s : State} (hf : s.fop ≠ .idle) (hr : s.resetIn = none) : tick s = advance s := by
  rw [tick, if_neg hf, if_neg (by simp [hr]), countDown_none hr]

/-- A tick is the small step of the command in progress. -/
theorem tick_of_smallStep {s t : State} (hf : s.fop ≠ .idle) (hr : s.resetIn = none) (h : smallStep s = some t) :
    tick s = t := by
  rw [tick_running hf hr, advance, h]

theorem runFor_add (m n : Nat) (s : State) : runFor (m + n) s = runFor n (runFor m s) := by
  induction m generalizing s with
  | zero => simp [runFor]
  | succ m ih => rw [Nat.succ_add, runFor, runFor, ih]

/-- With no command in progress nothing moves. -/
theorem tick_idle {s : State} (h : s.fop = .idle) : tick s = s := by simp [tick, h]

theorem runFor_idle {s : State} (h : s.fop = .idle) (n : Nat) : runFor n s = s := by
  induction n with
  | zero => rfl
  | succ n ih => rw [runFor, tick_idle h, ih]

/-- While the engine stays away nothing moves (40_transport.md R131). -/
theorem tick_hung {s : State} (hr : s.resetIn = none) (h : smallStep s = none) : tick s = s := by
  by_cases hf : s.fop = .idle
  · exact tick_idle hf
  · rw [tick_running hf hr, advance, h]

theorem runFor_hung {s : State} (hr : s.resetIn = none) (h : smallStep s = none) (n : Nat) : runFor n s = s := by
  induction n with
  | zero => rfl
  | succ n ih => rw [runFor, tick_hung hr h, ih]

/-- The engine's step under EngineFair is the step of R127 or R128. -/
theorem scheduledStep_fair {s : State} (h : s.sched = none) : scheduledStep s = (engineStep s).map spend := by
  simp [scheduledStep, h]

theorem resume_idle {s : State} (h : s.fop = .idle) : resume s = s := runFor_idle h _

/-- One sample changes only the slave's side. -/
theorem slaveClock_eq (s : State) : slaveClock s =
    { s with
      answers := (slaveClock s).answers
      draws := (slaveClock s).draws
      ref := (slaveClock s).ref } := by
  unfold slaveClock
  split
  · split
    · split <;> rfl
    · rfl
    · rfl
  · rfl

/-- The state after the leading edge of a bit (40_transport.md R127). -/
def afterLeading (s : State) : State :=
  emit (.sckFall (s.sr.getLsbD 7)) { s with sck := some false, mosi := some (s.sr.getLsbD 7) }

/-- The state after a trailing edge (R128). -/
def afterTrailing (s : State) : State :=
  let t := takeSample (misoLevel s) (slaveClock s)
  if t.bitcnt = 8 then flagsComplete { t with data := t.sr } else t

/-- A transfer in flight before the leading edge of its next bit, `n` bits still to go. -/
structure Flying (out : Option Byte) (result : Bool) (n : Nat) (s : State) : Prop where
  prim : currentPrim s = some (.xchg out result)
  running : s.fop ≠ .idle
  fair : s.sched = none
  calm : s.resetIn = none
  busy : s.busy = true
  tc : s.tc = false
  sck : s.sck = some true
  left : s.bitcnt.toNat + n = 8

/-- Two ticks clock one bit. -/
theorem runFor_bit {out : Option Byte} {result : Bool} {n : Nat} {s : State} (h : Flying out result (n + 1) s) :
    runFor 2 s = afterTrailing (afterLeading s) := by
  obtain ⟨hp, hr, hf, hc, hb, ht, hk, hl⟩ := h
  have hlt : s.bitcnt.toNat < 8 := by omega
  have e1 : engineStep s = some (afterLeading s) := by
    simp only [engineStep, leadingEdge, hb, hk, hlt, afterLeading]
    simp
  have h1 : smallStep s = some (afterLeading s) := by
    simp only [smallStep, hp, xchgStep, ht, hb, scheduledStep_fair hf, e1, Option.map_some, if_true, Bool.false_eq_true,
      if_false]
    rw [spend_none (s := afterLeading s) hf]
  have t1 : tick s = afterLeading s := tick_of_smallStep hr hc h1
  have hp2 : currentPrim (afterLeading s) = some (.xchg out result) := hp
  have e2 : engineStep (afterLeading s) = some (afterTrailing (afterLeading s)) := by
    simp [engineStep, leadingEdge, trailingEdge, afterLeading, afterTrailing, hb]
  have hf2 : (afterTrailing (afterLeading s)).sched = none := by
    unfold afterTrailing
    rw [slaveClock_eq]
    simp only []
    split <;> simp [afterLeading, hf]
  have h2 : smallStep (afterLeading s) = some (afterTrailing (afterLeading s)) := by
    have hb2 : (afterLeading s).busy = true := hb
    have ht2 : (afterLeading s).tc = false := ht
    simp only [smallStep, hp2, xchgStep, ht2, hb2, scheduledStep_fair (s := afterLeading s) hf, e2, Option.map_some,
      if_true, Bool.false_eq_true, if_false, spend_none hf2]
  have t2 : tick (afterLeading s) = afterTrailing (afterLeading s) := tick_of_smallStep hr hc h2
  simp only [runFor, t1, t2]

/-- The trailing edge in the slave's side and the block's, when the byte is not yet whole. -/
theorem afterTrailing_mid {s : State} (h : s.bitcnt + 1 ≠ 8) : afterTrailing s =
    { s with
      sck := some true
      sr := shiftIn s.sr (misoLevel s)
      bitcnt := s.bitcnt + 1
      trace := s.trace ++ [.sckRise (misoLevel s)]
      answers := (slaveClock s).answers
      draws := (slaveClock s).draws
      ref := (slaveClock s).ref } := by
  unfold afterTrailing
  rw [slaveClock_eq]
  exact if_neg h

/-- The trailing edge that makes the byte whole. -/
theorem afterTrailing_last {s : State} (h : s.bitcnt + 1 = 8) : afterTrailing s =
    { s with
      sck := some true
      sr := shiftIn s.sr (misoLevel s)
      bitcnt := 8
      data := shiftIn s.sr (misoLevel s)
      busy := false
      tc := true
      trace := s.trace ++ [.sckRise (misoLevel s)]
      answers := (slaveClock s).answers
      draws := (slaveClock s).draws
      ref := (slaveClock s).ref } := by
  unfold afterTrailing
  rw [slaveClock_eq]
  refine (if_pos h).trans ?_
  rw [show (8 : BitVec 4) = s.bitcnt + 1 from h.symm]
  rfl

/-- The events of the bits still to go: the bits leave at bit 7 of the shift register while samples enter. -/
def bitEvents : Byte → List Bool → List Event
  | _, [] => []
  | v, m :: ms => .sckFall (v.getLsbD 7) :: .sckRise m :: bitEvents (shiftIn v m) ms

/-- The levels MOSI takes while samples enter. -/
def bitsOut : Byte → List Bool → List Bool
  | _, [] => []
  | v, m :: ms => v.getLsbD 7 :: bitsOut (shiftIn v m) ms

/-- What `n` samples leave of the slave's side: for a selected oracle the samples it gives; for a selected reference
slave its reply's low bits, and the bits it received; unselected, draws. -/
def Sampled (s t : State) (ms sent : List Bool) : Prop :=
  if s.csN = some false then
    match s.slave with
    | .oracle => (ms, t.answers, t.draws) = oracleSamples ms.length s.answers s.draws ∧ t.ref = s.ref
    | .reference => refFlown false s t ms sent
    | .referenceStuck => refFlown true s t ms sent
  else t.answers = s.answers ∧ t.draws = s.draws + ms.length ∧ t.ref = s.ref
    ∧ ms = (List.range ms.length).map (fun j => Config.drawBit (s.draws + j))
where
  /-- The reference slave's part. -/
  refFlown (stuck : Bool) (s t : State) (ms sent : List Bool) : Prop :=
    ms = (List.range ms.length).map (fun j => (refReply s.cfg s.ref).getLsbD (ms.length - 1 - j))
    ∧ t.answers = s.answers ∧ t.draws = s.draws
    ∧ t.ref = refReceive s.cfg stuck { s.ref with rx := sent.foldl shiftIn s.ref.rx } (sent.foldl shiftIn s.ref.rx)

theorem refReply_rx (g : Cfg) (r : RefSlave) (v : Byte) : refReply g { r with rx := v } = refReply g r := rfl

theorem misoLevel_afterLeading (s : State) : misoLevel (afterLeading s) = misoLevel s := rfl

theorem trace_afterLeading (s : State) : (afterLeading s).trace = s.trace ++ [.sckFall (s.sr.getLsbD 7)] := rfl

/-- The last sample of a byte. -/
theorem sampled_last {s t : State} (h7 : s.bitcnt = 7) (ha : t.answers = (slaveClock (afterLeading s)).answers)
    (hd : t.draws = (slaveClock (afterLeading s)).draws) (hr : t.ref = (slaveClock (afterLeading s)).ref) :
    Sampled s t [misoLevel s] [s.sr.getLsbD 7] := by
  unfold Sampled
  split
  · rename_i hc
    have hc' : (afterLeading s).csN = some false := hc
    split
    · rename_i hk
      have hk' : (afterLeading s).slave = .oracle := hk
      unfold slaveClock at ha hd hr
      unfold misoLevel
      rw [if_pos hc'] at ha hd hr
      rw [if_pos hc]
      simp only [hk, hk'] at ha hd hr ⊢
      have e : (afterLeading s).answers = s.answers := rfl
      rw [e] at ha hd hr
      cases hans : s.answers <;> simp only [hans] at ha hd hr ⊢ <;> simp [ha, hd, hr, afterLeading, oracleSamples]
    all_goals
      rename_i hk
      have hk' : (afterLeading s).slave = s.slave := rfl
      have hb' : (afterLeading s).bitcnt = 7 := h7
      unfold slaveClock at ha hd hr
      rw [if_pos hc'] at ha hd hr
      rw [hk', hk] at ha hd hr
      simp only at ha hd hr
      refine ⟨?_, ha, hd, ?_⟩
      · simp [misoLevel, hc, hk, h7]
      · simp only [hb', refClock] at hr
        exact hr
  · rename_i hc
    have hc' : ¬(afterLeading s).csN = some false := hc
    unfold slaveClock at ha hd hr
    rw [if_neg hc'] at ha hd hr
    refine ⟨ha, hd, hr, ?_⟩
    simp [misoLevel, hc]

/-- One more sample in front. -/
theorem sampled_cons {s u t : State} {ms sent : List Bool} (hl : s.bitcnt.toNat + (ms.length + 1) = 8)
    (hn : 0 < ms.length) (hc : u.csN = s.csN) (hk : u.slave = s.slave) (hg : u.cfg = s.cfg)
    (ha : u.answers = (slaveClock (afterLeading s)).answers) (hd : u.draws = (slaveClock (afterLeading s)).draws)
    (hr : u.ref = (slaveClock (afterLeading s)).ref) (h : Sampled u t ms sent) :
    Sampled s t (misoLevel s :: ms) (s.sr.getLsbD 7 :: sent) := by
  unfold Sampled at h ⊢
  rw [hc] at h
  have hb : ¬ s.bitcnt = 7 := by
    intro e
    rw [e] at hl
    simp at hl
    omega
  split
  · rename_i hcs
    rw [if_pos hcs] at h
    have hcs' : (afterLeading s).csN = some false := hcs
    have hks : (afterLeading s).slave = s.slave := rfl
    rw [hk] at h
    unfold slaveClock at ha hd hr
    rw [if_pos hcs', hks] at ha hd hr
    split
    · rename_i hor
      simp only [hor] at h ha hd hr
      have e : (afterLeading s).answers = s.answers := rfl
      rw [e] at ha hd hr
      unfold misoLevel
      rw [if_pos hcs]
      simp only [hor]
      cases hans : s.answers with
      | nil =>
        simp only [hans] at ha hd hr ⊢
        obtain ⟨h1, h2⟩ := h
        rw [ha, hd] at h1
        simp only [afterLeading, emit_draws] at h1
        refine ⟨?_, by rw [h2, hr]; rfl⟩
        simp only [List.length_cons, oracleSamples]
        rw [← h1]
      | cons m as =>
        simp only [hans] at ha hd hr ⊢
        obtain ⟨h1, h2⟩ := h
        rw [ha, hd] at h1
        refine ⟨?_, by rw [h2, hr]; rfl⟩
        simp only [List.length_cons, oracleSamples]
        have h1' : (ms, t.answers, t.draws) = oracleSamples ms.length as s.draws := h1
        rw [← h1']
    all_goals
      rename_i hor
      have hbt : (afterLeading s).bitcnt = s.bitcnt := rfl
      have hmo : (afterLeading s).mosi = some (s.sr.getLsbD 7) := rfl
      have hrf : (afterLeading s).ref = s.ref := rfl
      rw [hor] at h ha hd hr
      simp only [hbt, hmo, hrf, refClock, hb, decide_false, Bool.false_eq_true, if_false, Option.getD_some] at ha hd hr
      obtain ⟨h1, h2, h3, h4⟩ := h
      refine ⟨?_, by rw [h2, ha]; rfl, by rw [h3, hd]; rfl, ?_⟩
      · rw [List.length_cons, List.range_succ_eq_map, List.map_cons, List.map_map]
        congr 1
        · simp only [misoLevel, hcs, hor, if_true]
          congr 1
          omega
        · rw [hg, hr, refReply_rx] at h1
          conv_lhs => rw [h1]
          refine List.map_congr_left (fun j _ => ?_)
          simp only [Function.comp]
          congr 1
          omega
      · rw [h4, hr, hg]
        rfl
  · rename_i hcs
    rw [if_neg hcs] at h
    have hcs' : ¬(afterLeading s).csN = some false := hcs
    unfold slaveClock at ha hd hr
    rw [if_neg hcs'] at ha hd hr
    obtain ⟨h1, h2, h3, h4⟩ := h
    have hd' : u.draws = s.draws + 1 := hd
    refine ⟨by rw [h1, ha]; rfl, by rw [h2, hd', List.length_cons]; omega, by rw [h3, hr]; rfl, ?_⟩
    rw [List.length_cons, List.range_succ_eq_map, List.map_cons, List.map_map]
    congr 1
    · simp [misoLevel, hcs]
    · rw [hd'] at h4
      conv_lhs => rw [h4]
      refine List.map_congr_left (fun j _ => ?_)
      simp only [Function.comp]
      congr 1
      omega

/-- The rest of a byte: `n + 1` bits clocked, then the transfer complete (40_transport.md R126 to R128). -/
theorem runFor_flight {out : Option Byte} {result : Bool} (n : Nat) {s : State} (h : Flying out result (n + 1) s) :
    ∃ t ms, ms.length = n + 1 ∧ runFor (2 * (n + 1)) s = t ∧ Sampled s t ms (bitsOut s.sr ms) ∧ t =
      { s with
        sck := some true
        mosi := (bitsOut s.sr ms).getLast?
        sr := ms.foldl shiftIn s.sr
        bitcnt := 8
        busy := false
        tc := true
        data := ms.foldl shiftIn s.sr
        trace := s.trace ++ bitEvents s.sr ms
        answers := t.answers
        draws := t.draws
        ref := t.ref } := by
  induction n generalizing s with
  | zero =>
    have h7 : s.bitcnt = 7 := by
      have := h.left
      refine BitVec.eq_of_toNat_eq ?_
      simp
      omega
    have h8 : (afterLeading s).bitcnt + 1 = 8 := by
      show s.bitcnt + 1 = 8
      rw [h7]
      rfl
    refine ⟨_, [misoLevel s], rfl, rfl, ?_, ?_⟩
    · rw [runFor_bit h, afterTrailing_last h8]
      exact sampled_last h7 rfl rfl rfl
    · rw [runFor_bit h, afterTrailing_last h8, misoLevel_afterLeading, trace_afterLeading]
      simp only [bitsOut, bitEvents, List.append_assoc]
      rfl
  | succ n ih =>
    have hl := h.left
    have h8 : (afterLeading s).bitcnt + 1 ≠ 8 := by
      show s.bitcnt + 1 ≠ 8
      intro e
      have := congrArg BitVec.toNat e
      rw [BitVec.toNat_add] at this
      simp at this
      omega
    have hb : (s.bitcnt + 1).toNat = s.bitcnt.toNat + 1 := by
      rw [BitVec.toNat_add]
      simp
      omega
    have hmid := afterTrailing_mid h8
    have hu : Flying out result (n + 1) (afterTrailing (afterLeading s)) := by
      rw [hmid]
      exact ⟨h.prim, h.running, h.fair, h.calm, h.busy, h.tc, rfl, by
        show (s.bitcnt + 1).toNat + (n + 1) = 8
        omega⟩
    obtain ⟨t, ms, hms, hrun, hsam, ht⟩ := ih hu
    refine ⟨t, misoLevel s :: ms, by simp [hms], ?_, ?_, ?_⟩
    · rw [show 2 * (n + 1 + 1) = 2 + 2 * (n + 1) by omega, runFor_add, runFor_bit h]
      exact hrun
    · have hsr : (afterTrailing (afterLeading s)).sr = shiftIn s.sr (misoLevel s) := by
        rw [hmid]
        rfl
      rw [hsr] at hsam
      refine sampled_cons (u := afterTrailing (afterLeading s)) (by omega) (by omega) ?_ ?_ ?_ ?_ ?_ ?_ hsam
      all_goals
        rw [hmid]
        try rfl
    · rw [hmid] at ht
      rw [ht]
      have e1 : (bitsOut s.sr (misoLevel s :: ms)).getLast? = (bitsOut (shiftIn s.sr (misoLevel s)) ms).getLast? := by
        cases ms with
        | nil => simp at hms
        | cons m ms => simp [bitsOut]
      rw [e1, misoLevel_afterLeading, trace_afterLeading]
      simp only [bitEvents, List.append_assoc]
      rfl

end Sys2Proof.Machine
end

