-- ==== Sys2Proof/Laws/Exchange.lean ====
section
/-! SUPPORT. A whole exchange (40_transport.md R126): the transfer, and its finish step inside a frame and in the command XCHG. -/

namespace Sys2Proof.Machine

theorem getLsbD_shiftIn_zero (v : Byte) (m : Bool) : (shiftIn v m).getLsbD 0 = m := by
  refine (BitVec.getLsbD_append (x := v.extractLsb' 0 7) (y := BitVec.ofBool m) (i := 0)).trans ?_
  simp

theorem getLsbD_shiftIn_succ (v : Byte) (m : Bool) (k : Nat) (hk : k < 7) :
    (shiftIn v m).getLsbD (k + 1) = v.getLsbD k := by
  refine (BitVec.getLsbD_append (x := v.extractLsb' 0 7) (y := BitVec.ofBool m) (i := k + 1)).trans ?_
  simp [hk]

/-- Eight samples, named. -/
theorem eight_samples {ms : List Bool} (h : ms.length = 8) :
    ∃ m7 m6 m5 m4 m3 m2 m1 m0, ms = [m7, m6, m5, m4, m3, m2, m1, m0] := by
  match ms, h with
  | [m7, m6, m5, m4, m3, m2, m1, m0], _ => exact ⟨_, _, _, _, _, _, _, _, rfl⟩

/-- After eight samples the shift register holds them, the first in bit 7 (10_state.md R28). -/
theorem byteBits_shifted (v : Byte) {ms : List Bool} (h : ms.length = 8) : byteBits (ms.foldl shiftIn v) = ms := by
  obtain ⟨m7, m6, m5, m4, m3, m2, m1, m0, rfl⟩ := eight_samples h
  simp only [byteBits, List.map, List.foldl]
  simp (disch := decide) only [getLsbD_shiftIn_zero, getLsbD_shiftIn_succ]

/-- Eight samples push the byte out, bit 7 first (20_memory.md R62). -/
theorem bitsOut_eight (v : Byte) {ms : List Bool} (h : ms.length = 8) : bitsOut v ms = byteBits v := by
  obtain ⟨m7, m6, m5, m4, m3, m2, m1, m0, rfl⟩ := eight_samples h
  simp only [byteBits, List.map, bitsOut]
  simp (disch := decide) only [getLsbD_shiftIn_succ]

/-- The events of eight bits are those of the byte sent and the byte received (00_scope.md R12). -/
theorem bitEvents_eight (v : Byte) {ms : List Bool} (h : ms.length = 8) :
    bitEvents v ms = byteEvents v (ms.foldl shiftIn v) := by
  obtain ⟨m7, m6, m5, m4, m3, m2, m1, m0, rfl⟩ := eight_samples h
  simp only [bitEvents, byteEvents, List.flatMap_cons, List.flatMap_nil, List.foldl, List.cons_append,
    List.nil_append]
  simp (disch := decide) only [getLsbD_shiftIn_zero, getLsbD_shiftIn_succ]

/-- A byte is its eight bits. -/
theorem byte_ext {v w : Byte} (h : byteBits v = byteBits w) : v = w := by
  simp only [byteBits, List.map, List.cons.injEq] at h
  obtain ⟨h7, h6, h5, h4, h3, h2, h1, h0, _⟩ := h
  refine BitVec.eq_of_getLsbD_eq (fun i hi => ?_)
  match i, hi with
  | 0, _ => exact h0
  | 1, _ => exact h1
  | 2, _ => exact h2
  | 3, _ => exact h3
  | 4, _ => exact h4
  | 5, _ => exact h5
  | 6, _ => exact h6
  | 7, _ => exact h7

theorem byteBits_length (v : Byte) : (byteBits v).length = 8 := rfl

/-- Shifting a byte's bits in leaves the byte. -/
theorem foldl_shiftIn_byteBits (v o : Byte) : (byteBits o).foldl shiftIn v = o :=
  byte_ext (byteBits_shifted v (byteBits_length o))

theorem byteBits_getLast (v : Byte) : (byteBits v).getLast? = some (v.getLsbD 0) := rfl

/-- An XCHG about to start in a block that may start it. -/
structure Starting (out : Option Byte) (result : Bool) (s : State) : Prop where
  prim : currentPrim s = some (.xchg out result)
  running : s.fop ≠ .idle
  fair : s.sched = none
  calm : s.resetIn = none
  enabled : s.en = true
  master : s.mstr = true
  resting : s.busy = false
  taken : s.tc = false
  sck : s.sck = some true

/-- The byte an XCHG sends: the one given, or a free value. -/
def byteSent (out : Option Byte) (s : State) : Byte := out.getD (Config.drawByte s.draws)

/-- The draws used up before the first sample. -/
def drawsStarted (out : Option Byte) (s : State) : Nat := if out = none then s.draws + 1 else s.draws

/-- Where the byte received comes from, and what is left of the slave's side in `t` (20_memory.md R70, R71, R81). -/
def Answered (out : Option Byte) (s t : State) (o i : Byte) : Prop :=
  if s.csN = some false then
    match s.slave with
    | .oracle =>
      (byteBits i, t.answers, t.draws) = oracleSamples 8 s.answers (drawsStarted out s) ∧ t.ref = s.ref
    | .reference => i = refReply s.cfg s.ref ∧ t.answers = s.answers ∧ t.draws = drawsStarted out s
        ∧ t.ref = refReceive s.cfg false { s.ref with rx := o } o
    | .referenceStuck => i = refReply s.cfg s.ref ∧ t.answers = s.answers ∧ t.draws = drawsStarted out s
        ∧ t.ref = refReceive s.cfg true { s.ref with rx := o } o
  else byteBits i = (List.range 8).map (fun j => Config.drawBit (drawsStarted out s + j))
    ∧ t.answers = s.answers ∧ t.draws = drawsStarted out s + 8 ∧ t.ref = s.ref

/-- The state after the start step (40_transport.md R125). -/
def afterStart (out : Option Byte) (s : State) : State :=
  { s with
    sr := byteSent out s
    bitcnt := 0
    busy := true
    tc := false
    draws := drawsStarted out s }

theorem startByte_eq {out : Option Byte} {result : Bool} {s : State} (h : Starting out result s) :
    startByte out s = some (afterStart out s) := by
  simp only [startByte, h.enabled, h.master, h.resting]
  cases out <;> simp [afterStart, byteSent, drawsStarted, flagsStart, h.enabled, h.master]

/-- The transfer of a byte: the start step and the sixteen edges, to the moment the transfer is complete (R125 to R128). -/
theorem runFor_transfer {out : Option Byte} {result : Bool} {s : State} (h : Starting out result s) :
    ∃ t i, runFor 17 s = t ∧ Answered out s t (byteSent out s) i ∧ t =
      { s with
        sr := i
        data := i
        bitcnt := 8
        tc := true
        mosi := some ((byteSent out s).getLsbD 0)
        trace := s.trace ++ byteEvents (byteSent out s) i
        answers := t.answers
        draws := t.draws
        ref := t.ref } := by
  have h1 : smallStep s = some (afterStart out s) := by
    simp only [smallStep, h.prim, xchgStep, h.taken, h.resting, startByte_eq h]
    simp
  have t1 : tick s = afterStart out s := tick_of_smallStep h.running h.calm h1
  have hfly : Flying out result (7 + 1) (afterStart out s) :=
    ⟨h.prim, h.running, h.fair, h.calm, rfl, rfl, h.sck, rfl⟩
  obtain ⟨t, ms, hms, hrun, hsam, ht⟩ := runFor_flight 7 hfly
  have hb := bitsOut_eight (afterStart out s).sr hms
  rw [hb] at hsam ht
  rw [bitEvents_eight _ hms, byteBits_getLast] at ht
  have hsr : (afterStart out s).sr = byteSent out s := rfl
  have hbits := byteBits_shifted (afterStart out s).sr hms
  generalize hi : List.foldl shiftIn (afterStart out s).sr ms = i at ht hbits
  have hrun17 : runFor 17 s = t := by
    rw [show 17 = 1 + 2 * (7 + 1) by rfl, runFor_add]
    show runFor (2 * (7 + 1)) (tick s) = _
    rw [t1, hrun]
  refine ⟨t, i, hrun17, ?_, ?_⟩
  · unfold Answered
    unfold Sampled at hsam
    have ec : (afterStart out s).csN = s.csN := rfl
    have ek : (afterStart out s).slave = s.slave := rfl
    have ed : (afterStart out s).draws = drawsStarted out s := rfl
    rw [ec, ek, hms] at hsam
    split
    · rename_i hc
      rw [if_pos hc] at hsam
      split <;> rename_i hk <;> rw [hk] at hsam
      · rw [hbits]
        exact hsam
      all_goals
        obtain ⟨e1, e2, e3, e4⟩ := hsam
        rw [foldl_shiftIn_byteBits, hsr] at e4
        refine ⟨?_, e2, e3, e4⟩
        rw [hms] at e1
        refine byte_ext ?_
        rw [hbits, e1]
        rfl
    · rename_i hc
      rw [if_neg hc] at hsam
      obtain ⟨e1, e2, e3, e4⟩ := hsam
      refine ⟨?_, e1, e2, e3⟩
      rw [hbits, e4]
      rfl
  · have hsh : s.busy = false := h.resting
    have hsk : s.sck = some true := h.sck
    rw [ht]
    rcases s with ⟨⟩
    simp only at hsh hsk
    subst hsh hsk
    rfl

/-- The finish step after a transfer (R129). -/
theorem tick_finish {out : Option Byte} {result : Bool} {s : State} (hp : currentPrim s = some (.xchg out result))
    (hf : s.fop ≠ .idle) (hr : s.resetIn = none) (ht : s.tc = true) : tick s = finishByte result s := by
  refine tick_of_smallStep hf hr ?_
  simp only [smallStep, hp, xchgStep, ht, if_true]

/-- Where the byte received comes from depends on the slave's side of the end alone. -/
theorem Answered_of_eq {out : Option Byte} {s t t' : State} {o i : Byte} (h : Answered out s t o i)
    (ha : t'.answers = t.answers) (hd : t'.draws = t.draws) (hr : t'.ref = t.ref) : Answered out s t' o i := by
  unfold Answered at h ⊢
  rw [ha, hd, hr]
  exact h

/-- An exchange inside a frame: eighteen small steps, and the sequencer goes on. -/
theorem runFor_exchange {out : Option Byte} {result : Bool} {s : State} (h : Starting out result s)
    (hx : s.fop ≠ .xchg) :
    ∃ t i, runFor 18 s = t ∧ Answered out s t (byteSent out s) i ∧ t =
      { s with
        sr := i
        data := i
        bitcnt := 8
        mosi := some ((byteSent out s).getLsbD 0)
        fidx := s.fidx + 1
        rsp := if result = true then okWord (zextData i) else s.rsp
        trace := s.trace ++ byteEvents (byteSent out s) i
        answers := t.answers
        draws := t.draws
        ref := t.ref } := by
  obtain ⟨t, i, hrun, hans, ht⟩ := runFor_transfer h
  have hp : currentPrim t = some (.xchg out result) := by
    rw [ht]
    exact h.prim
  have hfin : finishByte result t = nextPrim (takeByte result t) := if_neg (by rw [ht]; exact hx)
  have h18 : runFor 18 s = nextPrim (takeByte result t) := by
    rw [show 18 = 17 + 1 by rfl, runFor_add, hrun, ← hfin]
    exact tick_finish hp (by rw [ht]; exact h.running) (by rw [ht]; exact h.calm) (by rw [ht])
  refine ⟨_, i, h18, ?_, ?_⟩
  · refine Answered_of_eq hans ?_ ?_ ?_ <;> cases result <;> rfl
  · have htk : s.tc = false := h.taken
    rw [ht]
    rcases s with ⟨⟩
    simp only at htk
    subst htk
    cases result <;> rfl

/-- The command XCHG: eighteen small steps, the last of which responds (40_transport.md R126, R129). -/
theorem runFor_xchg {out : Option Byte} {result : Bool} {s : State} (h : Starting out result s) (hx : s.fop = .xchg) :
    ∃ t i, runFor 18 s = t ∧ Answered out s t (byteSent out s) i ∧ t =
      { s with
        fop := .idle
        fidx := 0
        sr := i
        data := i
        bitcnt := 8
        mosi := some ((byteSent out s).getLsbD 0)
        rsp := okWord (zextData i)
        trace := s.trace ++ byteEvents (byteSent out s) i
        answers := t.answers
        draws := t.draws
        ref := t.ref } := by
  obtain ⟨t, i, hrun, hans, ht⟩ := runFor_transfer h
  have hp : currentPrim t = some (.xchg out result) := by
    rw [ht]
    exact h.prim
  have hfin : finishByte result t = respond (zextData t.data) (flagsTaken t) := if_pos (by rw [ht]; exact hx)
  have h18 : runFor 18 s = respond (zextData t.data) (flagsTaken t) := by
    rw [show 18 = 17 + 1 by rfl, runFor_add, hrun, ← hfin]
    exact tick_finish hp (by rw [ht]; exact h.running) (by rw [ht]; exact h.calm) (by rw [ht])
  refine ⟨_, i, h18, Answered_of_eq hans rfl rfl rfl, ?_⟩
  have htk : s.tc = false := h.taken
  rw [ht]
  rcases s with ⟨⟩
  simp only at htk
  subst htk
  rfl

end Sys2Proof.Machine
end

