-- ==== Sys2Proof/Laws/Run.lean ====
section
/-! SUPPORT. Runs of small steps: what one small step can do, what every run keeps, what one step of the machine can do, and
the composition of primitives into frames (41_frames.md R150). -/

namespace Sys2Proof.Machine

/-- Everything a small step can do. -/
theorem smallStep_cases {s t : State} (h : smallStep s = some t) :
    (currentPrim s = some .csLow ∧ t = nextPrim (selectLow s)) ∨
    (currentPrim s = some .csHigh ∧ t = nextPrim (selectHigh s)) ∨
    (∃ out result, currentPrim s = some (.xchg out result) ∧
      ((s.tc = true ∧ s.fop = .xchg ∧ t = respond (zextData s.data) (flagsTaken s)) ∨
       (s.tc = true ∧ s.fop ≠ .xchg ∧ t = nextPrim (takeByte result s)) ∨
       (s.tc = false ∧ s.sched ≠ some 0 ∧ s.busy = true ∧ s.sck = some true ∧ s.bitcnt.toNat < 8 ∧
         t = spend (afterLeading s)) ∨
       (s.tc = false ∧ s.sched ≠ some 0 ∧ s.busy = true ∧ s.sck = some false ∧ t = spend (afterTrailing s)) ∨
       (s.tc = false ∧ s.busy = false ∧ s.en = true ∧ s.mstr = true ∧ t = afterStart out s))) ∨
    (currentPrim s = none ∧ t = respondEnd s) := by
  unfold smallStep at h
  split at h
  · rename_i hp
    exact .inl ⟨hp, (Option.some.inj h).symm⟩
  · rename_i hp
    exact .inr (.inl ⟨hp, (Option.some.inj h).symm⟩)
  · rename_i out result hp
    refine .inr (.inr (.inl ⟨out, result, hp, ?_⟩))
    unfold xchgStep at h
    split at h
    · rename_i htc
      have h := Option.some.inj h
      unfold finishByte at h
      split at h
      · rename_i hx
        exact .inl ⟨htc, hx, h.symm⟩
      · rename_i hx
        exact .inr (.inl ⟨htc, hx, h.symm⟩)
    · rename_i htc
      have htc' : s.tc = false := by simpa using htc
      split at h
      · rename_i hb
        unfold scheduledStep at h
        split at h
        · cases h
        rename_i hs
        obtain ⟨u, hu, rfl⟩ := Option.map_eq_some_iff.mp h
        unfold engineStep at hu
        split at hu
        · rename_i w hw
          unfold leadingEdge at hw
          split at hw
          · rename_i hc
            exact .inr (.inr (.inl ⟨htc', hs, hb, hc.2.1, hc.2.2, by
              rw [← Option.some.inj hu, ← Option.some.inj hw]; rfl⟩))
          · cases hw
        · unfold trailingEdge at hu
          split at hu
          · rename_i hc
            exact .inr (.inr (.inr (.inl ⟨htc', hs, hb, hc.2, by rw [← Option.some.inj hu]; rfl⟩)))
          · cases hu
      · rename_i hb
        have hb' : s.busy = false := by simpa using hb
        unfold startByte at h
        split at h
        · rename_i hc
          refine .inr (.inr (.inr (.inr ⟨htc', hb', hc.1, hc.2.1, ?_⟩)))
          cases out <;> simp only [Option.some.injEq] at h <;> rw [← h] <;>
            simp [afterStart, flagsStart, byteSent, drawsStarted]
        · cases h
  · rename_i hp
    exact .inr (.inr (.inr ⟨hp, (Option.some.inj h).symm⟩))

/-- What every small step, the passing of a moment and a due reset keep, every tick keeps. -/
structure Kept (P : State → Prop) : Prop where
  small : ∀ s t, P s → s.fop ≠ .idle → smallStep s = some t → P t
  moment : ∀ s, P s → P (countDown s)
  reset : ∀ s, P s → P (hardReset { s with resetIn := none })

theorem tick_keeps {P : State → Prop} (hk : Kept P) {s : State} (h : P s) : P (tick s) := by
  unfold tick
  split
  · exact h
  · rename_i hf
    split
    · exact hk.reset s h
    · unfold advance
      split
      · rename_i t ht
        exact hk.small _ t (hk.moment s h) hf ht
      · exact hk.moment s h

/-- So does every run. -/
theorem runFor_keeps {P : State → Prop} (hk : Kept P) {s : State} (h : P s) (n : Nat) : P (runFor n s) := by
  induction n generalizing s with
  | zero => exact h
  | succ n ih => exact ih (tick_keeps hk h)

theorem resume_keeps {P : State → Prop} (hk : Kept P) {s : State} (h : P s) : P (resume s) := runFor_keeps hk h _

/-- Everything one step of the machine can do. -/
theorem step_cases {s t : State} (h : step s = .next t) :
    (t = resume s) ∨
    (∃ rest, s.inputs = .reset :: rest ∧ t = hardReset { s with inputs := rest }) ∨
    (∃ n rest, s.inputs = .sched n :: rest ∧ t = resume { s with inputs := rest, sched := n }) ∨
    (∃ n rest, s.inputs = .resetAfter n :: rest ∧ t = resume { s with inputs := rest, resetIn := some n }) ∨
    (∃ rest, s.inputs = .checkLoopback :: rest ∧ s.fop = .idle ∧ t = checkLoopback { s with inputs := rest }) ∨
    (∃ w rest, s.inputs = .word w :: rest ∧ s.fop = .idle ∧ t = illegalWord w { s with inputs := rest }) ∨
    (∃ w rest i, s.inputs = .word w :: rest ∧ s.fop = .idle ∧ decode w = .ok i ∧
      exec i { s with inputs := rest } = .next t) := by
  unfold step at h
  split at h
  · exact .inl ((Host.Outcome.next.inj h).symm)
  · rename_i rest hi
    exact .inr (.inl ⟨rest, hi, (Host.Outcome.next.inj h).symm⟩)
  · rename_i n rest hi
    exact .inr (.inr (.inl ⟨n, rest, hi, (Host.Outcome.next.inj h).symm⟩))
  · rename_i n rest hi
    exact .inr (.inr (.inr (.inl ⟨n, rest, hi, (Host.Outcome.next.inj h).symm⟩)))
  · rename_i rest hi
    split at h
    · rename_i hf
      exact .inr (.inr (.inr (.inr (.inl ⟨rest, hi, hf, (Host.Outcome.next.inj h).symm⟩))))
    · exact .inl ((Host.Outcome.next.inj h).symm)
  · rename_i w rest hi
    split at h
    · rename_i hf
      split at h
      · rename_i i hd
        exact .inr (.inr (.inr (.inr (.inr (.inr ⟨w, rest, i, hi, hf, hd, h⟩)))))
      · exact .inr (.inr (.inr (.inr (.inr (.inl ⟨w, rest, hi, hf, (Host.Outcome.next.inj h).symm⟩)))))
    · exact .inl ((Host.Outcome.next.inj h).symm)

/-- The commands that run through the sequencer. -/
def isSequenced (f : Fop) : Bool := f == .xchg || isFrame f

/-- The open port accepts the command and runs its body. -/
theorem issue_open {f : Fop} {a b c : Byte} {body : State → State} {s : State} (hf : s.fop = .idle) :
    issue f a b c body s = .next (body (accept f a b c s)) := by
  unfold issue
  exact congrArg _ (if_pos hf)

/-- A closed port accepts nothing. -/
theorem issue_closed {f : Fop} {a b c : Byte} {body : State → State} {s : State} (hf : s.fop ≠ .idle) :
    issue f a b c body s = .next s := by
  unfold issue
  exact congrArg _ (if_neg hf)

/-- The body of a command, run on the state that accepted it. -/
def bodyOf : Instr → State → State
  | .spiInit _ _ _ => fun t => respond 0 (initSpi (noteBreach t))
  | .csLow _ _ _ => whenEnabled (fun t => respond 0 (selectLow t))
  | .csHigh _ _ _ => whenEnabled (fun t => respond 0 (selectHigh t))
  | .xchg _ _ _ | .fReset _ _ _ | .fRead _ _ _ | .fWrite _ _ _ | .fBitmod _ _ _ | .fRts _ _ _ | .fRdstat _ _ _
  | .fRdrxb _ _ _ => whenEnabled resume
  | .btTq _ _ _ => fun t => respond (btTq t.opa) t
  | .btSeglen _ _ _ => fun t => respond (btSeglen t.opa) t
  | .btPack1 _ _ _ => fun t => respond (zext10 (btPack1 t.opa)) t
  | .btPack2 _ _ _ => fun t => respond (zext10 (btPack2 t.cfg t.opa t.opb)) t
  | .btPack3 _ _ _ => fun t => respond (zext10 (btPack3 t.opa)) t
  | .btNbt _ _ _ => fun t => respond (btNbt t.cfg t.opa t.opb t.opc) t

/-- Every command goes through the port (30_encoding.md R91). -/
theorem exec_eq_issue (i : Instr) (s : State) : exec i s = issue (fopOf i) i.a i.b i.c (bodyOf i) s := by
  cases i <;> rfl

/-- A closed port accepts no command. -/
theorem exec_closed (i : Instr) {s : State} (hf : s.fop ≠ .idle) : exec i s = .next s :=
  (exec_eq_issue i s).trans (issue_closed hf)

/-- The open port runs the body of the command it accepts. -/
theorem exec_open (i : Instr) {s : State} (hf : s.fop = .idle) :
    exec i s = .next (bodyOf i (accept (fopOf i) i.a i.b i.c s)) :=
  (exec_eq_issue i s).trans (issue_open hf)

theorem whenEnabled_on {body : State → State} {s : State} (h : s.en = true) :
    whenEnabled body s = body (noteBreach s) := if_pos h

theorem whenEnabled_off {body : State → State} {s : State} (h : s.en = false) : whenEnabled body s = refuse s :=
  if_neg (by simp [h])

/-- Everything a command can do when the port is open. -/
theorem exec_cases (i : Instr) {s : State} (hf : s.fop = .idle) : ∃ t, exec i s = .next t ∧
    ((needsEnable i = true ∧ s.en = false ∧ t = refuse (accept (fopOf i) i.a i.b i.c s)) ∨
    (fopOf i = .spiInit ∧ t = respond 0 (initSpi (noteBreach (accept (fopOf i) i.a i.b i.c s)))) ∨
    (fopOf i = .csLow ∧ s.en = true ∧ t = respond 0 (selectLow (noteBreach (accept (fopOf i) i.a i.b i.c s)))) ∨
    (fopOf i = .csHigh ∧ s.en = true ∧ t = respond 0 (selectHigh (noteBreach (accept (fopOf i) i.a i.b i.c s)))) ∨
    (isSequenced (fopOf i) = true ∧ s.en = true ∧ t = resume (noteBreach (accept (fopOf i) i.a i.b i.c s))) ∨
    (isCalculator i = true ∧ ∃ d, t = respond d (accept (fopOf i) i.a i.b i.c s))) := by
  refine ⟨_, exec_open i hf, ?_⟩
  cases i
  case spiInit a b c => exact .inr (.inl ⟨rfl, rfl⟩)
  case btTq a b c => exact .inr (.inr (.inr (.inr (.inr ⟨rfl, _, rfl⟩))))
  case btSeglen a b c => exact .inr (.inr (.inr (.inr (.inr ⟨rfl, _, rfl⟩))))
  case btPack1 a b c => exact .inr (.inr (.inr (.inr (.inr ⟨rfl, _, rfl⟩))))
  case btPack2 a b c => exact .inr (.inr (.inr (.inr (.inr ⟨rfl, _, rfl⟩))))
  case btPack3 a b c => exact .inr (.inr (.inr (.inr (.inr ⟨rfl, _, rfl⟩))))
  case btNbt a b c => exact .inr (.inr (.inr (.inr (.inr ⟨rfl, _, rfl⟩))))
  all_goals
    rcases Bool.eq_false_or_eq_true s.en with hen | hen
    case' inr => exact .inl ⟨rfl, hen, if_neg (fun e => Bool.noConfusion (hen.symm.trans e))⟩
  · exact .inr (.inr (.inl ⟨rfl, hen, if_pos hen⟩))
  · exact .inr (.inr (.inr (.inl ⟨rfl, hen, if_pos hen⟩)))
  all_goals exact .inr (.inr (.inr (.inr (.inl ⟨rfl, hen, if_pos hen⟩))))

end Sys2Proof.Machine
end

