-- ==== Sys2Proof/Laws/Frame.lean ====
section
/-! SUPPORT. The composition of primitives: the exchanges of a list of bytes, and a whole frame (41_frames.md R150, R158, R159). -/

namespace Sys2Proof.Machine

/-- Samples taken in two parts. -/
theorem oracleSamples_add (m n : Nat) (as : List Bool) (d : Nat) : oracleSamples (m + n) as d =
    ((oracleSamples m as d).1 ++ (oracleSamples n (oracleSamples m as d).2.1 (oracleSamples m as d).2.2).1,
      (oracleSamples n (oracleSamples m as d).2.1 (oracleSamples m as d).2.2).2) := by
  induction m generalizing as d with
  | zero => simp [oracleSamples]
  | succ m ih => cases as <;> simp [Nat.succ_add, oracleSamples, ih]

/-- A frame command in progress between two of its primitives. -/
structure Between (s : State) : Prop where
  running : s.fop ≠ .idle
  framed : s.fop ≠ .xchg
  fair : s.sched = none
  calm : s.resetIn = none
  enabled : s.en = true
  master : s.mstr = true
  resting : s.busy = false
  taken : s.tc = false
  sck : s.sck = some true

/-- The primitives still to do. -/
def remaining (s : State) : List Prim := (script s).drop s.fidx.toNat

theorem currentPrim_of_remaining {s : State} {p : Prim} {rest : List Prim} (h : remaining s = p :: rest) :
    currentPrim s = some p := by
  have := congrArg List.head? h
  simpa [remaining, currentPrim, List.head?_drop] using this

theorem currentPrim_of_remaining_nil {s : State} (h : remaining s = []) : currentPrim s = none := by
  have := congrArg List.head? h
  simpa [remaining, currentPrim, List.head?_drop] using this

/-- A primitive done is off the list: the script depends on the command, its latches and the configuration alone. -/
theorem remaining_next {s t : State} {p : Prim} {rest : List Prim} (h : remaining s = p :: rest)
    (hl : (script s).length < 16) (hs : script t = script s) (hx : t.fidx = s.fidx + 1) : remaining t = rest := by
  have hlt : s.fidx.toNat < (script s).length := by
    by_contra hn
    unfold remaining at h
    rw [List.drop_eq_nil_of_le (by omega)] at h
    cases h
  have hf : t.fidx.toNat = s.fidx.toNat + 1 := by
    rw [hx, BitVec.toNat_add]
    simp
    omega
  unfold remaining at h ⊢
  rw [hs, hf, ← List.tail_drop, h]
  rfl

/-- No script is longer than ten primitives. -/
theorem script_length (s : State) : (script s).length ≤ 10 := by
  unfold script
  split <;> simp [xchgScript, fResetScript, fReadScript, fWriteScript, fBitmodScript, fRtsScript, fRdstatScript,
    fRdrxbScript, frame]

/-- The bytes sent are those of the list; where the list names none, any. -/
def Sends (ps : List (Option Byte × Bool)) (outs : List Byte) : Prop :=
  List.Forall₂ (fun p o => ∀ b, p.1 = some b → o = b) ps outs

/-- The response word after the exchanges: the last byte whose role is the result. -/
def resultOf : List (Option Byte × Bool) → List Byte → RespWord → RespWord
  | p :: ps, i :: ins, r => resultOf ps ins (if p.2 = true then okWord (zextData i) else r)
  | _, _, r => r

/-- The exchanges of the bytes of a frame with the slave selected. -/
theorem runFor_exchanges (p : Option Byte × Bool) (ps : List (Option Byte × Bool)) {rest : List Prim} {s : State}
    (h : Between s) (hr : remaining s = (p :: ps).map (fun q => Prim.xchg q.1 q.2) ++ rest) (hc : s.csN = some false) :
    ∃ t outs ins oLast iLast, runFor (18 * (ps.length + 1)) s = t ∧ Sends (p :: ps) outs ∧
      ins.length = outs.length ∧ ((∀ q ∈ p :: ps, q.1 ≠ none) → SlaveBytes s t outs ins) ∧
      outs.getLast? = some oLast ∧ ins.getLast? = some iLast ∧ remaining t = rest ∧ Between t ∧ t =
      { s with
        sr := iLast
        data := iLast
        bitcnt := 8
        mosi := some (oLast.getLsbD 0)
        fidx := t.fidx
        rsp := resultOf (p :: ps) ins s.rsp
        trace := s.trace ++ exchangeEvents outs ins
        answers := t.answers
        draws := t.draws
        ref := t.ref } := by
  have hl : (script s).length < 16 := lt_of_le_of_lt (script_length s) (by omega)
  have hst : Starting p.1 p.2 s := ⟨currentPrim_of_remaining hr, h.running, h.fair, h.calm, h.enabled, h.master, h.resting,
    h.taken, h.sck⟩
  obtain ⟨u, i, hrun, hans, hu⟩ := runFor_exchange hst h.framed
  have hur : remaining u = ps.map (fun q => Prim.xchg q.1 q.2) ++ rest :=
    remaining_next hr hl (by rw [hu]; rfl) (by rw [hu])
  have hub : Between u := by
    rw [hu]
    exact ⟨h.running, h.framed, h.fair, h.calm, h.enabled, h.master, h.resting, h.taken, h.sck⟩
  have huc : u.csN = some false := by rw [hu]; exact hc
  have huk : u.slave = s.slave := by rw [hu]
  have hug : u.cfg = s.cfg := by rw [hu]
  have hsend : ∀ b, p.1 = some b → byteSent p.1 s = b := by
    intro b hb
    simp [byteSent, hb]
  unfold Answered at hans
  rw [if_pos hc] at hans
  cases ps with
  | nil =>
    refine ⟨u, [byteSent p.1 s], [i], byteSent p.1 s, i, hrun, .cons hsend .nil, rfl, ?_, rfl, rfl, hur, hub, ?_⟩
    · intro hn
      have hnone : ¬ p.1 = none := hn p (by simp)
      unfold SlaveBytes
      split <;> rename_i hk <;> rw [hk] at hans
      · simpa [drawsStarted, hnone] using hans
      all_goals
        obtain ⟨e1, e2, e3, e4⟩ := hans
        rw [drawsStarted, if_neg hnone] at e3
        refine ⟨?_, e2, e3⟩
        simp [refBytes, e1, e4]
    · rw [hu]
      simp [resultOf, exchangeEvents]
  | cons q qs =>
    obtain ⟨t, outs, ins, oLast, iLast, hrun2, hs2, hlen, hsl, ho, hi, hrest, hbt, ht⟩ :=
      runFor_exchanges q qs hub hur huc
    refine ⟨t, byteSent p.1 s :: outs, i :: ins, oLast, iLast, ?_, .cons hsend hs2, by simp [hlen], ?_, ?_, ?_, hrest,
      hbt, ?_⟩
    · rw [show 18 * ((q :: qs).length + 1) = 18 + 18 * (qs.length + 1) by simp; omega, runFor_add, hrun]
      exact hrun2
    · intro hn
      have hnone : ¬ p.1 = none := hn p (by simp)
      have h2 := hsl (fun r hr => hn r (List.mem_cons_of_mem _ hr))
      unfold SlaveBytes at h2 ⊢
      rw [huk] at h2
      split <;> rename_i hk <;> rw [hk] at hans h2
      · obtain ⟨e1, e2⟩ := hans
        obtain ⟨f1, f2⟩ := h2
        rw [drawsStarted, if_neg hnone] at e1
        refine ⟨?_, by rw [f2, e2]⟩
        rw [List.length_cons, show 8 * (outs.length + 1) = 8 + 8 * outs.length by omega, oracleSamples_add, ← e1, ← f1]
        simp
      all_goals
        obtain ⟨e1, e2, e3, e4⟩ := hans
        obtain ⟨f1, f2, f3⟩ := h2
        rw [drawsStarted, if_neg hnone] at e3
        rw [hug, e4] at f1
        refine ⟨?_, f2.trans e2, f3.trans e3⟩
        simp only [refBytes, ← f1, e1]
    · cases outs with
      | nil => simp at ho
      | cons o os => simpa using ho
    · cases ins with
      | nil => simp at hi
      | cons o os => simpa using hi
    · rw [hu] at ht
      rw [ht]
      simp only [resultOf, exchangeEvents, List.zip_cons_cons, List.flatMap_cons, List.append_assoc]

/-- The slave's part depends on the slave's side alone. -/
theorem SlaveBytes_of_eq {s u t t' : State} {outs ins : List Byte} (h : SlaveBytes u t outs ins)
    (hk : u.slave = s.slave) (hg : u.cfg = s.cfg) (ha : u.answers = s.answers) (hd : u.draws = s.draws)
    (hr : u.ref = s.ref) (ha' : t'.answers = t.answers) (hd' : t'.draws = t.draws) (hr' : t'.ref = t.ref) :
    SlaveBytes s t' outs ins := by
  unfold SlaveBytes at h ⊢
  rw [hk, hg, ha, hd, hr] at h
  rw [ha', hd', hr']
  exact h

/-- The select primitive that is next is one tick. -/
theorem tick_select {s t : State} {p : Prim} {rest : List Prim} (h : Between s) (hr : remaining s = p :: rest)
    (hp : (p = .csLow ∧ t = nextPrim (selectLow s)) ∨ (p = .csHigh ∧ t = nextPrim (selectHigh s))) :
    tick s = t := by
  refine tick_of_smallStep h.running h.calm ?_
  unfold smallStep
  rw [currentPrim_of_remaining hr]
  rcases hp with ⟨rfl, rfl⟩ | ⟨rfl, rfl⟩ <;> rfl

/-- What the fall of chip-select changes of the slave. -/
theorem slaveCsFall_eq (s : State) : slaveCsFall s = { s with ref := (slaveCsFall s).ref } := by
  unfold slaveCsFall
  split <;> rfl

theorem slaveCsFall_ref (s : State) : (slaveCsFall s).ref = if s.slave = .oracle then s.ref else refCsFall s.ref := by
  unfold slaveCsFall
  split <;> rename_i h <;> simp [h]

/-- CS_LOW as a primitive, when the lines are driven. -/
theorem selectLow_eq {s : State} (hc : s.csN ≠ none) : selectLow s =
    { s with
      csN := some false
      trace := if s.csN = some true then s.trace ++ [.csFall] else s.trace
      ref := if s.csN = some true then (slaveCsFall s).ref else s.ref } := by
  unfold selectLow
  split
  · rename_i h
    rw [slaveCsFall_eq, slaveCsFall_ref, slaveCsFall_ref]
    rfl
  · rename_i h
    have : s.csN = some false := by
      match hb : s.csN with
      | none => exact absurd hb hc
      | some true => exact absurd hb h
      | some false => rfl
    rw [← this]

/-- A whole frame: one CsFall if chip-select was high, the bytes, one CsRise (41_frames.md R158, R159). -/
theorem runFor_frame (p : Option Byte × Bool) (ps : List (Option Byte × Bool)) {rest : List Prim} {s : State}
    (h : Between s) (hr : remaining s = frame (p :: ps) ++ rest) (hc : s.csN ≠ none) :
    ∃ t outs ins oLast iLast, runFor (18 * (ps.length + 1) + 2) s = t ∧ Sends (p :: ps) outs ∧
      ins.length = outs.length ∧
      ((∀ q ∈ p :: ps, q.1 ≠ none) →
        SlaveBytes (if s.csN = some true then slaveCsFall s else s) t outs ins) ∧
      outs.getLast? = some oLast ∧ ins.getLast? = some iLast ∧ remaining t = rest ∧ Between t ∧ t =
      { s with
        sr := iLast
        data := iLast
        bitcnt := 8
        mosi := some (oLast.getLsbD 0)
        csN := some true
        fidx := t.fidx
        rsp := resultOf (p :: ps) ins s.rsp
        trace := s.trace ++ (if s.csN = some true then [.csFall] else []) ++ exchangeEvents outs ins ++ [.csRise]
        answers := t.answers
        draws := t.draws
        ref := t.ref } := by
  have hl : (script s).length < 16 := lt_of_le_of_lt (script_length s) (by omega)
  have hlow := selectLow_eq hc
  have t1 : tick s = nextPrim (selectLow s) := tick_select h hr (.inl ⟨rfl, rfl⟩)
  generalize hu : nextPrim (selectLow s) = u at t1
  rw [hlow] at hu
  have hur : remaining u = (p :: ps).map (fun q => Prim.xchg q.1 q.2) ++ (.csHigh :: rest) := by
    rw [remaining_next hr hl (t := u) (by rw [← hu]; rfl) (by rw [← hu]; rfl)]
    simp
  have hub : Between u := by
    rw [← hu]
    exact ⟨h.running, h.framed, h.fair, h.calm, h.enabled, h.master, h.resting, h.taken, h.sck⟩
  obtain ⟨v, outs, ins, oLast, iLast, hrun, hs, hlen, hsl, ho, hi, hvr, hvb, hv⟩ :=
    runFor_exchanges p ps hub hur (by rw [← hu]; rfl)
  have hvc : v.csN = some false := by
    rw [hv, ← hu]
    rfl
  have hvl : (script v).length < 16 := lt_of_le_of_lt (script_length v) (by omega)
  have hhigh : selectHigh v = { v with csN := some true, trace := v.trace ++ [.csRise] } := if_pos hvc
  have t3 : tick v = nextPrim (selectHigh v) := tick_select hvb hvr (.inr ⟨rfl, rfl⟩)
  rw [hhigh] at t3
  refine ⟨nextPrim { v with csN := some true, trace := v.trace ++ [.csRise] }, outs, ins, oLast, iLast, ?_, hs, hlen, ?_,
    ho, hi, remaining_next hvr hvl rfl rfl, ?_, ?_⟩
  · rw [show 18 * (ps.length + 1) + 2 = 1 + 18 * (ps.length + 1) + 1 by omega, runFor_add, runFor_add]
    show tick (runFor (18 * (ps.length + 1)) (tick s)) = _
    rw [t1, hrun, t3]
  · intro hn
    have h2 := hsl hn
    rw [← hu] at h2
    split
    · rename_i hct
      rw [slaveCsFall_eq]
      exact SlaveBytes_of_eq h2 rfl rfl rfl rfl (if_pos hct) rfl rfl rfl
    · rename_i hct
      exact SlaveBytes_of_eq h2 rfl rfl rfl rfl (if_neg hct) rfl rfl rfl
  · exact ⟨hvb.running, hvb.framed, hvb.fair, hvb.calm, hvb.enabled, hvb.master, hvb.resting, hvb.taken, hvb.sck⟩
  · rw [hv, ← hu]
    simp only [nextPrim]
    split <;> simp

/-- What acceptance forgot and the response takes again. -/
theorem ite_retaken {α : Type} (p : Prop) [Decidable p] (x y z : α) :
    (if p then x else if p then y else z) = if p then x else z := by
  by_cases h : p
  · rw [if_pos h, if_pos h]
  · rw [if_neg h, if_neg h, if_neg h]

/-- The response ends the command. -/
theorem tick_respond {s : State} (h : Between s) (hr : remaining s = []) : tick s = respondEnd s := by
  refine tick_of_smallStep h.running h.calm ?_
  unfold smallStep
  rw [currentPrim_of_remaining_nil hr]

theorem bodyOf_frame {i : Instr} (hi : isFrame (fopOf i) = true) : bodyOf i = whenEnabled resume := by
  cases i <;> first | exact Bool.noConfusion hi | simp only [bodyOf]

/-- Noting a breach changes its record alone. -/
theorem noteBreach_eq (s : State) : noteBreach s = { s with breaches := (noteBreach s).breaches } := by
  unfold noteBreach
  split <;> rfl

/-- The command XCHG in a ready block, from acceptance to response (40_transport.md R126). -/
theorem exec_xchg (a b c : Byte) {s : State} (h : Ready s) :
    ∃ t i, exec (.xchg a b c) s = .next t ∧ Answered (some a) s t a i ∧ t =
      { s with
        sr := i
        data := i
        bitcnt := 8
        mosi := some (a.getLsbD 0)
        rsp := okWord (zextData i)
        trace := s.trace ++ byteEvents a i
        opa := a
        opb := b
        opc := c
        fidx := 0
        answers := t.answers
        draws := t.draws
        ref := t.ref
        breaches := t.breaches } := by
  obtain ⟨⟨hfop, hen, hm, hb, ht, hk⟩, hsch, hcalm⟩ := h
  have hexec : exec (.xchg a b c) s = .next (resume (noteBreach (accept .xchg a b c s))) := by
    rw [exec_open _ hfop]
    show Host.Outcome.next (bodyOf (.xchg a b c) (accept .xchg a b c s)) = _
    rw [show bodyOf (.xchg a b c) = whenEnabled resume by simp only [bodyOf],
      whenEnabled_on (s := accept .xchg a b c s) hen]
  have hu := noteBreach_eq (accept .xchg a b c s)
  generalize noteBreach (accept .xchg a b c s) = u at hexec hu
  have hst : Starting (some a) true u := by
    rw [hu]
    exact ⟨rfl, fun e => Fop.noConfusion e, hsch, hcalm, hen, hm, hb, ht, hk⟩
  obtain ⟨t, i, hrun, hans, ht'⟩ := runFor_xchg hst (by rw [hu]; rfl)
  have hend : resume u = t := by
    unfold resume
    rw [show longest = 18 + 110 by rfl, runFor_add, hrun, runFor_idle (by rw [ht'])]
  refine ⟨t, i, by rw [hexec, hend], ?_, ?_⟩
  · rw [hu] at hans
    exact hans
  · rw [ht', hu]
    rcases s with ⟨⟩
    simp only [accept] at hfop ⊢
    subst hfop
    rfl

/-- A frame command accepted in a ready block stands before its first primitive, and only the record of a breach is new. -/
theorem exec_sequenced (i : Instr) {s : State} (hi : isFrame (fopOf i) = true) (h : Ready s) :
    ∃ u, exec i s = .next (resume u) ∧ Between u ∧ remaining u = script (accept (fopOf i) i.a i.b i.c s) ∧
      u = { accept (fopOf i) i.a i.b i.c s with breaches := u.breaches } := by
  obtain ⟨⟨hfop, hen, hm, hb, ht, hk⟩, hsch, hcalm⟩ := h
  have hnote := noteBreach_eq (accept (fopOf i) i.a i.b i.c s)
  refine ⟨noteBreach (accept (fopOf i) i.a i.b i.c s), ?_, ?_, ?_, hnote⟩
  · have e : exec i s = .next (whenEnabled resume (accept (fopOf i) i.a i.b i.c s)) := by
      rw [exec_open i hfop, bodyOf_frame hi]
    rw [e, whenEnabled_on (s := accept (fopOf i) i.a i.b i.c s) hen]
  · rw [hnote]
    refine ⟨?_, ?_, hsch, hcalm, hen, hm, hb, ht, hk⟩
    all_goals
      intro e
      have e : fopOf i = _ := e
      rw [e] at hi
      cases hi
  · rw [hnote]
    rfl

/-- A frame command of one frame, in a ready block, from acceptance to response. -/
theorem exec_oneFrame (i : Instr) (p : Option Byte × Bool) (ps : List (Option Byte × Bool)) {s : State}
    (hi : isFrame (fopOf i) = true) (hn : ps.length ≤ 3) (h : Ready s) (hc : s.csN ≠ none)
    (hscript : script (accept (fopOf i) i.a i.b i.c s) = frame (p :: ps)) :
    ∃ t outs ins oLast iLast, exec i s = .next t ∧ Sends (p :: ps) outs ∧ ins.length = outs.length ∧
      ((∀ q ∈ p :: ps, q.1 ≠ none) → SlaveBytes (if s.csN = some true then slaveCsFall s else s) t outs ins) ∧
      outs.getLast? = some oLast ∧ ins.getLast? = some iLast ∧ t =
      { s with
        opa := i.a
        opb := i.b
        opc := i.c
        sr := iLast
        data := iLast
        bitcnt := 8
        mosi := some (oLast.getLsbD 0)
        csN := some true
        fidx := 0
        rsp := okWord (if hasResult (fopOf i) = true then (resultOf (p :: ps) ins s.rsp).setWidth 10 else 0)
        trace := s.trace ++ (if s.csN = some true then [.csFall] else []) ++ exchangeEvents outs ins ++ [.csRise]
        answers := t.answers
        draws := t.draws
        ref := t.ref
        breaches := t.breaches
        modeRead := if ReadsMode s.cfg (fopOf i) i.a then some ((resultOf (p :: ps) ins s.rsp).setWidth 8)
          else s.modeRead } := by
  obtain ⟨u, hexec, hub, hur, hu⟩ := exec_sequenced i hi h
  have huc : u.csN = s.csN := by rw [hu]; rfl
  obtain ⟨v, outs, ins, oLast, iLast, hrun, hs, hlen, hsl, ho, hil, hvr, hvb, hv⟩ :=
    runFor_frame p ps (rest := []) hub (by rw [hur, hscript, List.append_nil]) (by rw [huc]; exact hc)
  have hend : resume u = respondEnd v := by
    unfold resume
    rw [show longest = 18 * (ps.length + 1) + 2 + 1 + (125 - 18 * (ps.length + 1)) by unfold longest; omega,
      runFor_add, runFor_add, hrun]
    rw [show runFor 1 v = tick v from rfl, tick_respond hvb hvr, runFor_idle rfl]
  have hfop : v.fop = fopOf i := by rw [hv, hu]; rfl
  refine ⟨respondEnd v, outs, ins, oLast, iLast, by rw [hexec, hend], hs, hlen, ?_, ho, hil, ?_⟩
  · intro hq
    have h2 := hsl hq
    rw [huc] at h2
    by_cases hct : s.csN = some true
    · rw [if_pos hct] at h2 ⊢
      refine SlaveBytes_of_eq h2 ?_ ?_ ?_ ?_ ?_ rfl rfl rfl
      all_goals
        rw [hu, slaveCsFall_eq, slaveCsFall_eq s, slaveCsFall_ref, slaveCsFall_ref]
        rfl
    · rw [if_neg hct] at h2 ⊢
      refine SlaveBytes_of_eq h2 ?_ ?_ ?_ ?_ ?_ rfl rfl rfl
      all_goals
        rw [hu]
        rfl
  · have hidle := h.1.1
    unfold respondEnd respond noteMode
    rw [hfop, hv, hu]
    rcases s with ⟨⟩
    simp only [accept, ite_retaken] at hidle ⊢
    subst hidle
    rfl

/-- A frame command of two frames, in a ready block with chip-select high, from acceptance to response. -/
theorem exec_twoFrames (i : Instr) (p q : Option Byte × Bool) (ps qs : List (Option Byte × Bool)) {s : State}
    (hi : isFrame (fopOf i) = true) (hn : ps.length + qs.length ≤ 4) (h : Ready s) (hc : s.csN ≠ none)
    (hscript : script (accept (fopOf i) i.a i.b i.c s) = frame (p :: ps) ++ frame (q :: qs)) :
    ∃ t v outs ins outs' ins' oLast iLast, exec i s = .next t ∧ Sends (p :: ps) outs ∧ Sends (q :: qs) outs' ∧
      ins.length = outs.length ∧ ins'.length = outs'.length ∧
      ((∀ q ∈ p :: ps, q.1 ≠ none) → SlaveBytes (if s.csN = some true then slaveCsFall s else s) v outs ins) ∧
      ((∀ r ∈ q :: qs, r.1 ≠ none) → SlaveBytes (slaveCsFall v) t outs' ins') ∧
      v.slave = s.slave ∧ v.cfg = s.cfg ∧
      outs'.getLast? = some oLast ∧ ins'.getLast? = some iLast ∧ t =
      { s with
        opa := i.a
        opb := i.b
        opc := i.c
        sr := iLast
        data := iLast
        bitcnt := 8
        mosi := some (oLast.getLsbD 0)
        csN := some true
        fidx := 0
        rsp := okWord (if hasResult (fopOf i) = true then
          (resultOf (q :: qs) ins' (resultOf (p :: ps) ins s.rsp)).setWidth 10 else 0)
        trace := s.trace ++ (if s.csN = some true then [.csFall] else []) ++ exchangeEvents outs ins ++ [.csRise]
          ++ frameEvents outs' ins'
        answers := t.answers
        draws := t.draws
        ref := t.ref
        breaches := t.breaches
        modeRead := if ReadsMode s.cfg (fopOf i) i.a then
          some ((resultOf (q :: qs) ins' (resultOf (p :: ps) ins s.rsp)).setWidth 8) else s.modeRead } := by
  obtain ⟨u, hexec, hub, hur, hu⟩ := exec_sequenced i hi h
  have huc : u.csN = s.csN := by rw [hu]; rfl
  obtain ⟨v, outs, ins, oLast, iLast, hrun, hs, hlen, hsl, ho, hil, hvr, hvb, hv⟩ :=
    runFor_frame p ps (rest := frame (q :: qs)) hub (by rw [hur, hscript]) (by rw [huc]; exact hc)
  have hvc : v.csN = some true := by rw [hv]
  obtain ⟨w, outs', ins', oLast', iLast', hrun', hs', hlen', hsl', ho', hil', hwr, hwb, hw⟩ :=
    runFor_frame q qs (rest := []) hvb (by rw [hvr, List.append_nil]) (by rw [hvc]; simp)
  rw [if_pos hvc] at hsl'
  rw [if_pos hvc] at hw
  have hend : resume u = respondEnd w := by
    unfold resume
    rw [show longest = 18 * (ps.length + 1) + 2 + (18 * (qs.length + 1) + 2) + 1
        + (123 - 18 * (ps.length + 1) - 18 * (qs.length + 1)) by unfold longest; omega,
      runFor_add, runFor_add, runFor_add, hrun, hrun']
    rw [show runFor 1 w = tick w from rfl, tick_respond hwb hwr, runFor_idle rfl]
  have hfop : w.fop = fopOf i := by rw [hw, hv, hu]; rfl
  refine ⟨respondEnd w, v, outs, ins, outs', ins', oLast', iLast', by rw [hexec, hend], hs, hs', hlen, hlen', ?_, ?_,
    by rw [hv, hu]; rfl, by rw [hv, hu]; rfl, ho', hil', ?_⟩
  · intro hq
    have h2 := hsl hq
    rw [huc] at h2
    by_cases hct : s.csN = some true
    · rw [if_pos hct] at h2 ⊢
      refine SlaveBytes_of_eq h2 ?_ ?_ ?_ ?_ ?_ rfl rfl rfl
      all_goals
        rw [hu, slaveCsFall_eq, slaveCsFall_eq s, slaveCsFall_ref, slaveCsFall_ref]
        rfl
    · rw [if_neg hct] at h2 ⊢
      refine SlaveBytes_of_eq h2 ?_ ?_ ?_ ?_ ?_ rfl rfl rfl
      all_goals
        rw [hu]
        rfl
  · intro hq
    exact SlaveBytes_of_eq (hsl' hq) rfl rfl rfl rfl rfl rfl rfl rfl
  · have hidle := h.1.1
    unfold respondEnd respond noteMode
    rw [hfop, hw, hv, hu]
    rcases s with ⟨⟩
    simp only [accept, frameEvents, List.append_assoc, ite_retaken] at hidle ⊢
    subst hidle
    rfl

end Sys2Proof.Machine
end

