-- ==== Sys2Proof/Laws/Memory.lean ====
section
/-! SUPPORT. Memory: a read after a write, the other addresses, and the canonical form, which every operation keeps. -/

namespace Sys2Proof.Machine

/-- Cells whose keys all lie above `k` say nothing about `k`. -/
theorem readAt_of_wfFrom {m : Memory} {lo k : Nat} (h : m.wfFrom lo = true) (hk : k < lo) :
    m.readAt k = Memory.unlisted := by
  induction m generalizing lo with
  | nil => rfl
  | cons c t ih =>
    obtain ⟨j, v⟩ := c
    simp only [Memory.wfFrom, Bool.and_eq_true, decide_eq_true_eq] at h
    obtain ⟨⟨⟨h1, _⟩, _⟩, h4⟩ := h
    rw [Memory.readAt, if_neg (by omega)]
    exact ih h4 (by omega)

/-- A weaker lower bound still holds. -/
theorem wfFrom_mono {m : Memory} {lo lo' : Nat} (h : m.wfFrom lo = true) (hl : lo' ≤ lo) :
    m.wfFrom lo' = true := by
  cases m with
  | nil => rfl
  | cons c t =>
    simp only [Memory.wfFrom, Bool.and_eq_true, decide_eq_true_eq] at h ⊢
    exact ⟨⟨⟨by omega, h.1.1.2⟩, h.1.2⟩, h.2⟩

theorem consCell_wfFrom {t : Memory} {lo k : Nat} (v : Byte) (h : t.wfFrom (k + 1) = true) (hl : lo ≤ k)
    (hk : k < 256) : (Memory.consCell k v t).wfFrom lo = true := by
  unfold Memory.consCell
  split
  · exact wfFrom_mono h (by omega)
  · rename_i hv
    simp only [Memory.wfFrom, Bool.and_eq_true, decide_eq_true_eq]
    exact ⟨⟨⟨hl, hk⟩, hv⟩, h⟩

theorem readAt_consCell_same {t : Memory} {k : Nat} (v : Byte) (h : t.wfFrom (k + 1) = true) :
    (Memory.consCell k v t).readAt k = v := by
  unfold Memory.consCell
  split
  · rename_i hv
    rw [readAt_of_wfFrom h (by omega), hv]
  · simp [Memory.readAt]

theorem readAt_consCell_other {t : Memory} {k j : Nat} (v : Byte) (h : k ≠ j) :
    (Memory.consCell k v t).readAt j = t.readAt j := by
  unfold Memory.consCell
  split
  · rfl
  · simp [Memory.readAt, h]

/-- Writing keeps the canonical form. -/
theorem writeAt_wfFrom {m : Memory} {lo k : Nat} (v : Byte) (h : m.wfFrom lo = true) (hl : lo ≤ k) (hk : k < 256) :
    (m.writeAt k v).wfFrom lo = true := by
  induction m generalizing lo with
  | nil => exact consCell_wfFrom v rfl hl hk
  | cons c t ih =>
    obtain ⟨j, u⟩ := c
    have h' := h
    simp only [Memory.wfFrom, Bool.and_eq_true, decide_eq_true_eq] at h
    obtain ⟨⟨⟨h1, h2⟩, h3⟩, h4⟩ := h
    unfold Memory.writeAt
    split
    · refine consCell_wfFrom v ?_ hl hk
      simp only [Memory.wfFrom, Bool.and_eq_true, decide_eq_true_eq]
      exact ⟨⟨⟨by omega, h2⟩, h3⟩, h4⟩
    · split
      · rename_i hkj
        subst hkj
        exact consCell_wfFrom v h4 hl hk
      · simp only [Memory.wfFrom, Bool.and_eq_true, decide_eq_true_eq]
        exact ⟨⟨⟨h1, h2⟩, h3⟩, ih h4 (by omega)⟩

/-- A read of the key written gives the value written. -/
theorem readAt_writeAt_same {m : Memory} {lo k : Nat} (v : Byte) (h : m.wfFrom lo = true) :
    (m.writeAt k v).readAt k = v := by
  induction m generalizing lo with
  | nil => exact readAt_consCell_same v rfl
  | cons c t ih =>
    obtain ⟨j, u⟩ := c
    simp only [Memory.wfFrom, Bool.and_eq_true, decide_eq_true_eq] at h
    obtain ⟨⟨⟨h1, h2⟩, h3⟩, h4⟩ := h
    unfold Memory.writeAt
    split
    · refine readAt_consCell_same v ?_
      simp only [Memory.wfFrom, Bool.and_eq_true, decide_eq_true_eq]
      exact ⟨⟨⟨by omega, h2⟩, h3⟩, h4⟩
    · split
      · rename_i hkj
        subst hkj
        exact readAt_consCell_same v h4
      · rw [Memory.readAt, if_neg (by omega)]
        exact ih h4

/-- A read of another key is as before. -/
theorem readAt_writeAt_other {m : Memory} {k i : Nat} (v : Byte) (hki : k ≠ i) :
    (m.writeAt k v).readAt i = m.readAt i := by
  induction m with
  | nil => exact readAt_consCell_other v hki
  | cons c t ih =>
    obtain ⟨j, u⟩ := c
    unfold Memory.writeAt
    split
    · exact readAt_consCell_other v hki
    · split
      · rename_i _ hkj
        subst hkj
        rw [readAt_consCell_other v hki, Memory.readAt, if_neg hki]
      · simp only [Memory.readAt, ih]

/-- Writing a register keeps the canonical form. -/
theorem write_wf {m : Memory} (a v : Byte) (h : m.wf = true) : (m.write a v).wf = true :=
  writeAt_wfFrom v h (Nat.zero_le _) a.isLt

/-- The register written reads as the value written. -/
theorem read_write_same {m : Memory} (a v : Byte) (h : m.wf = true) : (m.write a v).read a = v :=
  readAt_writeAt_same v h

/-- Every other register reads as before. -/
theorem read_write_other {m : Memory} {a b : Byte} (v : Byte) (h : a ≠ b) : (m.write a v).read b = m.read b :=
  readAt_writeAt_other v (fun e => h (BitVec.eq_of_toNat_eq e))

/-- The two together. -/
theorem read_write {m : Memory} (a b v : Byte) (h : m.wf = true) :
    (m.write a v).read b = if a = b then v else m.read b := by
  split
  · rename_i e
    subst e
    exact read_write_same a v h
  · rename_i e
    exact read_write_other v e

end Sys2Proof.Machine
end

