-- ==== Sys2Proof/Laws/PerInstr.lean ====
section
/-! SUPPORT. One lemma for each command: the word of a command holds its operation and its three operands in the fields of
30_encoding.md R92, and its operation is legal. -/

namespace Sys2Proof

/-- The four fields of a word put together (30_encoding.md R92, R106). -/
theorem fields_wordOf (op a b c : Byte) : fieldOp (wordOf op a b c) = op ∧ fieldA (wordOf op a b c) = a ∧
    fieldB (wordOf op a b c) = b ∧ fieldC (wordOf op a b c) = c := by
  refine ⟨?_, ?_, ?_, ?_⟩ <;>
    (refine BitVec.eq_of_getLsbD_eq (fun i hi => ?_)
     simp only [fieldOp, fieldA, fieldB, fieldC, wordOf, BitVec.getLsbD_extractLsb', BitVec.getLsbD_append, hi]
     simp only [decide_true, Bool.true_and, Nat.zero_add]
     repeat' split
     all_goals first | omega | (congr 1 <;> omega))

end Sys2Proof

namespace Sys2Proof.Laws.Fields

/-- The command's word holds the command field by field. -/
def Statement (i : Instr) : Prop :=
  i.wf = true ∧ fieldOp (encode i) = i.op ∧ fieldA (encode i) = i.a ∧ fieldB (encode i) = i.b ∧ fieldC (encode i) = i.c

theorem spiInit (a b c : Byte) : Statement (.spiInit a b c) := ⟨rfl, fields_wordOf _ a b c⟩
theorem csLow (a b c : Byte) : Statement (.csLow a b c) := ⟨rfl, fields_wordOf _ a b c⟩
theorem csHigh (a b c : Byte) : Statement (.csHigh a b c) := ⟨rfl, fields_wordOf _ a b c⟩
theorem xchg (a b c : Byte) : Statement (.xchg a b c) := ⟨rfl, fields_wordOf _ a b c⟩
theorem fReset (a b c : Byte) : Statement (.fReset a b c) := ⟨rfl, fields_wordOf _ a b c⟩
theorem fRead (a b c : Byte) : Statement (.fRead a b c) := ⟨rfl, fields_wordOf _ a b c⟩
theorem fWrite (a b c : Byte) : Statement (.fWrite a b c) := ⟨rfl, fields_wordOf _ a b c⟩
theorem fBitmod (a b c : Byte) : Statement (.fBitmod a b c) := ⟨rfl, fields_wordOf _ a b c⟩
theorem fRts (a b c : Byte) : Statement (.fRts a b c) := ⟨rfl, fields_wordOf _ a b c⟩
theorem fRdstat (a b c : Byte) : Statement (.fRdstat a b c) := ⟨rfl, fields_wordOf _ a b c⟩
theorem fRdrxb (a b c : Byte) : Statement (.fRdrxb a b c) := ⟨rfl, fields_wordOf _ a b c⟩
theorem btTq (a b c : Byte) : Statement (.btTq a b c) := ⟨rfl, fields_wordOf _ a b c⟩
theorem btSeglen (a b c : Byte) : Statement (.btSeglen a b c) := ⟨rfl, fields_wordOf _ a b c⟩
theorem btPack1 (a b c : Byte) : Statement (.btPack1 a b c) := ⟨rfl, fields_wordOf _ a b c⟩
theorem btPack2 (a b c : Byte) : Statement (.btPack2 a b c) := ⟨rfl, fields_wordOf _ a b c⟩
theorem btPack3 (a b c : Byte) : Statement (.btPack3 a b c) := ⟨rfl, fields_wordOf _ a b c⟩
theorem btNbt (a b c : Byte) : Statement (.btNbt a b c) := ⟨rfl, fields_wordOf _ a b c⟩

end Sys2Proof.Laws.Fields
end

