-- ==== Sys2Proof/Tests/Slice0.lean ====
section
/-! SUPPORT. Tests: the checks of WellFormed refuse ill-formed terms, words written out from the spec decode, single steps
agree with the vectors of 95_test_vectors.md, and every statement's hypotheses are met by a concrete state. -/

namespace Sys2Proof.Tests

open Sys2Proof Sys2Proof.Machine

set_option maxRecDepth 20000

/- Helpers -/

/-- The state an outcome goes on with. -/
def after (o : Host.Outcome State Fault Refusal) : State :=
  match o with
  | .next t => t
  | .fault _ => State.reset
  | .refused _ => State.reset

/-- INIT of 95_test_vectors.md: power-on, then SPI_INIT. -/
def inited : State := after (exec (.spiInit 0 0 0) State.reset)

/-- INIT, then CS_LOW. -/
def opened : State := after (exec (.csLow 0 0 0) inited)

/-- INIT with RefSlave holding the bytes `m`. -/
def withRegs (m : Memory) : State := { inited with slave := .reference, ref := { RefSlave.reset with sreg := m } }

/-- A write frame stopped in its second byte after four edges, twenty engine steps (VF13). -/
def hung : State := after (exec (.fWrite 0x05 0xAB 0) { withRegs [] with sched := some 20 })

/-- The same one edge earlier, SCK low. -/
def hungLow : State := after (exec (.fWrite 0x05 0xAB 0) { withRegs [] with sched := some 19 })

/-- A read of the mode-status register hung in its first byte, the check after it, and an earlier byte and result. -/
def reading : State :=
  after (step { withRegs [] with sched := some 5, modeRead := some 0x40, ok := some true,
                                 inputs := [.word 0x110E0000, .checkLoopback] })

/-- A configuration in which the bit of F_RTS and the selectors of F_RDRXB can leave the byte. -/
def wide : Cfg := { Cfg.default with N_TX_BUF := 9, RDRXB_BUF_SHIFT := 8, RDRXB_DATA_SHIFT := 7 }

/-- A slave with one register, which every reply carries and every address names; it stores when chip-select rises. -/
def single : SlaveView (List Byte × Byte) where
  fall := fun st => ([], st.2)
  reply := fun st => st.2
  take := fun st o => (st.1 ++ [o], st.2)
  rise := fun st => (st.1,
    match st.1 with
    | [c] => if c = 0xC0 then 0x80 else st.2
    | [c, _, x] => if c = 0x02 then x else st.2
    | [c, _, m, x] => if c = 0x05 then maskedUpdate st.2 m x else st.2
    | _ => st.2)
  wait := fun st => st
  valid := fun _ => True
  content := fun st _ => st.2
  status := fun st => st.2

/-- INIT with an oracle that answers as `single`, with 0x80 in its register, does over the session `fs`. -/
def answering (fs : List (Nat × List Byte)) : State :=
  { inited with answers := (single.session ([], 0x80) fs).flatten.flatMap byteBits }

/- WellFormed -/

theorem test_opcode_gaps_refused : opLegal 0x04 = false ∧ opLegal 0x0F = false ∧ opLegal 0x17 = false ∧
    opLegal 0x1F = false ∧ opLegal 0x26 = false ∧ opLegal 0xFF = false := by decide
theorem test_opcode_edges_accepted : opLegal 0x00 = true ∧ opLegal 0x03 = true ∧ opLegal 0x10 = true ∧
    opLegal 0x16 = true ∧ opLegal 0x20 = true ∧ opLegal 0x25 = true := by decide
theorem test_word_legal : wordLegal 0x04000000 = false ∧ wordLegal 0xFFFFFFFF = false ∧ wordLegal 0x00ABCDEF = true := by
  decide
theorem test_instr_wf : (Instr.fBitmod 0x0F 0xE0 0x40).wf = true := by decide
theorem test_cfg_default_wf : Cfg.default.wf = true := by decide
theorem test_cfg_no_oscillator : { Cfg.default with F_OSC_HZ := 0 }.wf = false := by decide
theorem test_cfg_too_many_tx_buffers : { Cfg.default with N_TX_BUF := 9, CMD_RTS_BASE := 0x00 }.wf = false := by decide
theorem test_cfg_mask_missing : { Cfg.default with RXIF_BIT := [0x01] }.wf = false := by decide
theorem test_cfg_data_selector_outside : { Cfg.default with RDRXB_DATA_SHIFT := 8 }.wf = false := by decide
theorem test_cfg_buffer_selector_outside : { Cfg.default with RDRXB_BUF_SHIFT := 8 }.wf = false := by decide
theorem test_cfg_commands_clash : { Cfg.default with CMD_READ := 0x02 }.wf = false := by decide
theorem test_cfg_clash_found : { Cfg.default with CMD_READ := 0x02 }.cmdDistinct = false := by decide

/- Decoding, words written out bit by bit from 30_encoding.md R92, R94 -/

theorem test_decode_transport :
    decode 0b00000000101010111100110111101111 = .ok (.spiInit 0xAB 0xCD 0xEF) ∧
    decode 0b00000001111111111111111111111111 = .ok (.csLow 0xFF 0xFF 0xFF) ∧
    decode 0b00000010000000000000000000000000 = .ok (.csHigh 0x00 0x00 0x00) ∧
    decode 0b00000011101001010000000000000000 = .ok (.xchg 0xA5 0x00 0x00) := by decide
theorem test_decode_frames :
    decode 0b00010000000000000000000000000000 = .ok (.fReset 0x00 0x00 0x00) ∧
    decode 0b00010001000011100000000000000000 = .ok (.fRead 0x0E 0x00 0x00) ∧
    decode 0b00010010000001011010101100000000 = .ok (.fWrite 0x05 0xAB 0x00) ∧
    decode 0b00010011000011111110000001000000 = .ok (.fBitmod 0x0F 0xE0 0x40) ∧
    decode 0b00010100000000010000000000000000 = .ok (.fRts 0x01 0x00 0x00) ∧
    decode 0b00010101000000000000000000000000 = .ok (.fRdstat 0x00 0x00 0x00) ∧
    decode 0b00010110000000000000000100000000 = .ok (.fRdrxb 0x00 0x01 0x00) := by decide
theorem test_decode_calculator :
    decode 0b00100000000000010000000000000000 = .ok (.btTq 0x01 0x00 0x00) ∧
    decode 0b00100001000001110000000000000000 = .ok (.btSeglen 0x07 0x00 0x00) ∧
    decode 0b00100010001111110000000000000000 = .ok (.btPack1 0x3F 0x00 0x00) ∧
    decode 0b00100011000000010000001000000000 = .ok (.btPack2 0x01 0x02 0x00) ∧
    decode 0b00100100000000100000000000000000 = .ok (.btPack3 0x02 0x00 0x00) ∧
    decode 0b00100101000000010000011000000101 = .ok (.btNbt 0x01 0x06 0x05) := by decide
theorem test_decode_illegal : decode 0x04000000 = .error (.illegalOp 0x04) ∧ decode 0x1F000000 = .error (.illegalOp 0x1F) ∧
    decode 0xFFFFFFFF = .error (.illegalOp 0xFF) := by decide
theorem test_encode : encode (.fBitmod 0x0F 0xE0 0x40) = 0x130FE040 := by decide
theorem test_table_word : decodeTableWord 32 0x1205AB00 = some (.fWrite 0x05 0xAB 0x00) ∧
    decodeTableWord 8 0x1205AB00 = some (.spiInit 0x00 0x00 0x00) := by decide
theorem test_fetch_word : (after (step (State.reset.withFetchWord 32 0x20010000))).rsp = 0x0004 ∧
    (after (step (State.reset.withFetchWord 32 0x20010000))).inputs = [] := by decide

/- The transport, 95_test_vectors.md 2.1 -/

/-- VT1. -/
theorem test_spi_init : inited.en = true ∧ inited.dord = false ∧ inited.cpol = true ∧ inited.csN = some true ∧
    inited.sck = some true ∧ inited.mosi = none ∧ inited.trace = [] ∧ inited.rsp = 0x0000 := by decide
/-- VT7. -/
theorem test_spi_init_open : (after (exec (.spiInit 0 0 0) opened)).trace = [.csFall, .csRise] ∧
    (after (exec (.spiInit 0 0 0) opened)).breaches = [.bracket .spiInit] := by decide
/-- VT3, VT4. -/
theorem test_cs_low : opened.csN = some false ∧ opened.trace = [.csFall] ∧ opened.breaches = [] ∧
    (after (exec (.csLow 0 0 0) opened)).trace = [.csFall] ∧
    (after (exec (.csLow 0 0 0) opened)).breaches = [.bracket .csLow] := by decide
/-- VT5. -/
theorem test_cs_high : (after (exec (.csHigh 0 0 0) opened)).trace = [.csFall, .csRise] ∧
    (after (exec (.csHigh 0 0 0) opened)).csN = some true := by decide
/-- VT6. -/
theorem test_cs_high_again : (after (exec (.csHigh 0 0 0) inited)).trace = [] ∧
    (after (exec (.csHigh 0 0 0) inited)).rsp = 0x0000 := by decide
/-- VT8. -/
theorem test_xchg :
    let t := after (exec (.xchg 0xA5 0 0) { opened with answers := [false, false, true, true, true, true, false, false] })
    t.trace = [.csFall, .sckFall true, .sckRise false, .sckFall false, .sckRise false, .sckFall true, .sckRise true,
      .sckFall false, .sckRise true, .sckFall false, .sckRise true, .sckFall true, .sckRise true, .sckFall false,
      .sckRise false, .sckFall true, .sckRise false] ∧
    t.rsp = 0x003C ∧ t.sr = 0x3C ∧ t.data = 0x3C ∧ t.bitcnt = 8 ∧ t.mosi = some true ∧ t.sck = some true ∧
    t.busy = false ∧ t.tc = false ∧ t.opa = 0xA5 ∧ t.fop = .idle := by decide
/-- VT14: five engine steps. -/
theorem test_xchg_in_flight :
    let t := after (exec (.xchg 0xA5 0 0)
      { opened with answers := [false, false, true, true, true, true, false, false], sched := some 5 })
    t.sr = 0x94 ∧ t.bitcnt = 2 ∧ t.sck = some false ∧ t.mosi = some true ∧ t.busy = true ∧ t.tc = false ∧
    t.fop = .xchg ∧ leadingEdge t = none := by decide

/-- R129, R131: with its sixteen engine steps an XCHG has its response. -/
theorem test_xchg_sixteen_steps :
    let t := after (exec (.xchg 0xA5 0 0) { opened with answers := byteBits 0x3C, sched := some 16 })
    t.rsp = 0x003C ∧ t.fop = .idle ∧ t.fidx = 0 ∧ t.tc = false ∧ t.sched = some 0 := by decide

/- The frames, 2.3 -/

/-- VF1. -/
theorem test_f_reset :
    let t := after (exec (.fReset 0 0 0) (withRegs [(0x0F, 0x07)]))
    t.trace = frameEvents [0xC0] [0x00] ∧ t.rsp = 0x0000 ∧ t.ref.sreg.read 0x0F = 0x87 ∧ t.ref.sreg.read 0x0E = 0x80 := by
  decide
/-- VF2. -/
theorem test_f_read :
    let t := after (exec (.fRead 0x0E 0 0) (withRegs [(0x0E, 0x80), (0x0F, 0x80)]))
    t.trace = frameEvents [0x03, 0x0E, 0x00] [0x00, 0x00, 0x80] ∧ t.rsp = 0x0080 := by decide
/-- VF4. -/
theorem test_f_write :
    let t := after (exec (.fWrite 0x05 0xAB 0) (withRegs []))
    t.trace = frameEvents [0x02, 0x05, 0xAB] [0x00, 0x00, 0x00] ∧ t.rsp = 0x0000 ∧ t.ref.sreg = [(0x05, 0xAB)] := by decide
/-- VF5. -/
theorem test_f_write_mode :
    let t := after (exec (.fWrite 0x0F 0x40 0) (withRegs [(0x0E, 0x80), (0x0F, 0x80)]))
    t.ref.sreg = [(0x0E, 0x40), (0x0F, 0x40)] := by decide
/-- VF6. -/
theorem test_f_bitmod :
    let t := after (exec (.fBitmod 0x0F 0xE0 0x00) (withRegs [(0x0E, 0x80), (0x0F, 0x87)]))
    t.trace = frameEvents [0x05, 0x0F, 0xE0, 0x00] [0x00, 0x00, 0x00, 0x00] ∧ t.ref.sreg = [(0x0F, 0x07)] := by decide
/-- VF7c: the value is not masked. -/
theorem test_f_bitmod_value :
    let t := after (exec (.fBitmod 0x60 0x0F 0xFF) (withRegs [(0x60, 0xA0)]))
    t.trace = frameEvents [0x05, 0x60, 0x0F, 0xFF] [0x00, 0x00, 0x00, 0x00] ∧ t.ref.sreg = [(0x60, 0xAF)] := by decide
/-- VF8. -/
theorem test_f_rts :
    let t := after (exec (.fRts 0x02 0 0) (withRegs []))
    t.trace = frameEvents [0x84] [0x00] ∧ t.ref.rtsLog = [0x02] := by decide
/-- VF9: a byte is sent all the same. -/
theorem test_f_rts_out_of_range : (after (exec (.fRts 0x03 0 0) inited)).fop = .idle ∧
    (after (exec (.fRts 0x03 0 0) inited)).csN = some true := by decide
/-- VF10. -/
theorem test_f_rdstat :
    let t := after (exec (.fRdstat 0 0 0) (withRegs [(0x2C, 0xFF)]))
    t.trace = frameEvents [0xA0, 0x00] [0x00, 0x03] ∧ t.rsp = 0x0003 := by decide
/-- VF12: the slave sees one read frame of address 0xA0. -/
theorem test_f_rdstat_in_open_frame :
    let s := withRegs [(0x2C, 0x03), (0xA0, 0x77)]
    let t := after (exec (.fRdstat 0 0 0)
      { s with csN := some false, ref := { s.ref with cmd := some 0x03, idx := 1 } })
    t.rsp = 0x0077 ∧ t.csN = some true ∧ t.breaches = [.bracket .fRdstat] := by decide
/-- VF11b. -/
theorem test_f_rdrxb :
    let t := after (exec (.fRdrxb 0x00 0x01 0) (withRegs [(0x2C, 0x03), (0x66, 0x5A)]))
    t.trace = frameEvents [0x92, 0x00] [0x00, 0x5A] ++ frameEvents [0x05, 0x2C, 0x01, 0x00] [0x00, 0x00, 0x00, 0x00] ∧
    t.rsp = 0x005A ∧ t.ref.sreg.read 0x2C = 0x02 ∧ t.fidx = 0 := by decide
/-- VF11c. -/
theorem test_f_rdrxb_other :
    let t := after (exec (.fRdrxb 0x01 0x00 0) (withRegs [(0x2C, 0x03), (0x71, 0x22)]))
    t.rsp = 0x0022 ∧ t.ref.sreg.read 0x2C = 0x01 := by decide
/-- VF13: the hang, R160. -/
theorem test_hang : hung.csN = some false ∧ hung.busy = true ∧ hung.bitcnt = 2 ∧ hung.sr = 0x14 ∧ hung.fop = .fWrite ∧
    hung.fidx = 2 ∧ hung.ref.sreg = [] ∧
    hung.trace = .csFall :: byteEvents 0x02 0x00 ++
      [.sckFall false, .sckRise false, .sckFall false, .sckRise false] := by decide

/- Refusals, reset and the host, 2.2, 2.5, 2.6 -/

/-- VE1. -/
theorem test_not_initialised : (after (exec (.fRead 0x05 0 0) State.reset)).rsp = 0x8000 ∧
    (after (exec (.fRead 0x05 0 0) State.reset)).trace = [] ∧ (after (exec (.fRead 0x05 0 0) State.reset)).en = false := by
  decide
/-- VE3. -/
theorem test_illegal_word : (after (step { inited with inputs := [.word 0x17000000] })).rsp = 0x8000 ∧
    (after (step { inited with inputs := [.word 0x17000000] })).trace = [] := by decide
/-- VT15, P7: a reset in mid-frame. -/
theorem test_reset_in_frame :
    let t := after (step { hung with inputs := [.reset, .word 0x11050000] })
    t.trace = hung.trace ++ [.released] ∧ t.en = false ∧ t.csN = none ∧ t.busy = false ∧ t.fop = .idle ∧
    t.inputs = [.word 0x11050000] := by decide
/-- R250, P7: a reset that comes in a frame, three moments after its acceptance. -/
theorem test_reset_comes_in_frame :
    let t := after (exec (.fWrite 0x05 0xAB 0) { withRegs [] with resetIn := some 3 })
    t.trace = [.csFall, .sckFall false, .released] ∧ t.en = false ∧ t.fop = .idle ∧ t.ref.sreg = [] := by decide
/-- R91, P7: a word waits at a closed port. -/
theorem test_word_waits : (after (step { hung with inputs := [.word 0x11050000] })).inputs = [.word 0x11050000] ∧
    (after (step { hung with inputs := [.word 0x11050000] })).fidx = 2 := by decide
/-- VQ1, VQ3. -/
theorem test_set_loopback : canSetLoopback Cfg.default =
    [.word 0x130FE080, .word 0x130FE040, .word 0x110E0000, .checkLoopback] := by decide
/-- P6 (b), its last step. -/
theorem test_check_loopback :
    let s := { inited with modeRead := some 0x80, cfg := { Cfg.default with DIAG_ENABLED := true }, inputs := [.checkLoopback] }
    (after (step s)).ok = some false ∧ (after (step s)).diag = [.verificationFailure 0x40 0x80] := by decide
/-- P6 (a), its last step. -/
theorem test_check_loopback_ok :
    (after (step { inited with modeRead := some 0x40, inputs := [.checkLoopback] })).ok = some true := by decide
/-- P6, steps 3 and 4: the byte checked is the one F_READ returned; bits outside the mask are ignored. -/
theorem test_read_then_check :
    let t := after (step { withRegs [(0x0E, 0x4F)] with inputs := [.word 0x110E0000, .checkLoopback] })
    t.rsp = 0x004F ∧ t.modeRead = some 0x4F ∧ (after (step t)).ok = some true ∧ (after (step t)).inputs = [] := by decide
/-- R202 case c, R227: an F_READ that hangs and is ended by a reset gives no result and no diagnostic, whatever MODE_LOOPBACK. -/
theorem test_hung_read_no_result :
    let s := { reading with cfg := { Cfg.default with DIAG_ENABLED := true, MODE_LOOPBACK := 0x00 } }
    let t := after (step { s with resetIn := some 0 })
    reading.fop = .fRead ∧ (after (step s)).inputs = [.checkLoopback] ∧ (after (step s)).ok = some true ∧
    t.fop = .idle ∧ t.trace = s.trace ++ [.released] ∧ (after (step t)).ok = none ∧ (after (step t)).diag = [] ∧
    (after (step t)).inputs = [] := by decide
/-- R97: a refused F_READ gives no result. -/
theorem test_refused_read_no_result :
    let t := after (step { State.reset with modeRead := some 0x40, inputs := [.word 0x110E0000, .checkLoopback] })
    t.rsp = 0x8000 ∧ (after (step t)).ok = none ∧ (after (step t)).diag = [] := by decide

/- The calculator, 2.4 -/

/-- VB4, VB2. -/
theorem test_bt_tq : (after (exec (.btTq 255 0 0) State.reset)).rsp = 0x0200 ∧
    (after (exec (.btTq 1 0 0) State.reset)).rsp = 0x0004 := by decide
/-- VB8. -/
theorem test_bt_seglen : (after (exec (.btSeglen 255 0 0) State.reset)).rsp = 0x0100 := by decide
/-- VB10. -/
theorem test_bt_pack1 : (after (exec (.btPack1 255 0 0) State.reset)).rsp = 0x00FF := by decide
/-- VB11, VB13, VB14, VB15. -/
theorem test_bt_pack2 : (after (exec (.btPack2 1 2 0) State.reset)).rsp = 0x0011 ∧
    (after (exec (.btPack2 0 31 0) State.reset)).rsp = 0x00F8 ∧
    (after (exec (.btPack2 0 32 0) State.reset)).rsp = 0x0000 ∧
    (after (exec (.btPack2 255 255 0) State.reset)).rsp = 0x00FF := by decide
/-- VB17. -/
theorem test_bt_pack3 : (after (exec (.btPack3 8 0 0) State.reset)).rsp = 0x0008 := by decide
/-- VB18, VB21. -/
theorem test_bt_nbt : (after (exec (.btNbt 1 2 2) State.reset)).rsp = 0x0009 ∧
    (after (exec (.btNbt 255 255 255) State.reset)).rsp = 0x0301 := by decide
/-- VB37. -/
theorem test_bt_fits : btFits Cfg.default 63 7 7 7 = true ∧ btFits Cfg.default 64 0 0 0 = false ∧
    btFits Cfg.default 0 8 0 0 = false := by decide
/-- VB38. -/
theorem test_bt_unpack : btUnpack 0x01 0x11 0x02 = (1, 1, 2, 2) := by decide
/-- VB35, VB36. -/
theorem test_bt_brp_for : btBrpFor Cfg.default (1 / 4000000) = some 1 ∧ btBrpFor Cfg.default (1 / 8000000) = some 0 ∧
    btBrpFor Cfg.default (3 / 16000000) = none ∧ btBrpFor Cfg.default (1 / 16000000) = none := by decide +kernel
/-- VB33. -/
theorem test_bt_rate : bitRate Cfg.default 3 1 6 5 = 125000 := by decide +kernel

/-- 20_memory.md R80: the initial state of the reference slave, and the one State.reset holds. -/
theorem test_ref_init : refInit Cfg.default = RefSlave.reset := by decide

/- The hypotheses of the statements are met -/

/-- DecodeOfEncode, EncodeOfDecode, StepRunsDecoded. -/
theorem witness_decode : (Instr.fWrite 0x05 0xAB 0x00).wf = true ∧ decode 0x1205AB00 = .ok (.fWrite 0x05 0xAB 0x00) ∧
    (State.reset.withFetchWord 32 0x1205AB00).inputs = [.word 0x1205AB00] ∧
    (State.reset.withFetchWord 32 0x1205AB00).fop = .idle := by decide
/-- IllegalWordsRefused. -/
theorem witness_illegal : decode 0x17000000 = .error (.illegalOp 0x17) ∧
    { State.reset with inputs := [.word 0x17000000] }.fop = .idle := by decide
/-- ClosedPortAcceptsNothing, without a reset to come and with one. -/
theorem witness_closed : { hung with inputs := [.word 0x11050000] }.fop ≠ .idle ∧ hung.resetIn = none ∧
    { hung with inputs := [.word 0x11050000], resetIn := some 0 }.fop ≠ .idle := by decide
/-- ResetActsAtOnce: a block that drives its lines, and one that does not; a reset due inside a command. -/
theorem witness_reset : { hung with inputs := [.reset] }.inputs = .reset :: [] ∧ hung.en = true ∧ State.reset.en = false ∧
    { hung with resetIn := some 0 }.inputs = [] ∧ { hung with resetIn := some 0 }.fop ≠ .idle ∧
    { hung with resetIn := some 0 }.resetIn = some 0 := by decide
/-- NotInitialisedRefused, and the refusal clauses of the effects; the calculator's statements. -/
theorem witness_not_initialised : State.reset.fop = .idle ∧ State.reset.en = false ∧ needsEnable (.csLow 0 0 0) = true ∧
    needsEnable (.xchg 0 0 0) = true ∧ needsEnable (.fReset 0 0 0) = true ∧ needsEnable (.fRdrxb 0 0 0) = true ∧
    needsEnable (.spiInit 0 0 0) = false ∧ needsEnable (.btTq 0 0 0) = false ∧ needsEnable (.btNbt 0 0 0) = false := by decide
/-- SpiInitEffect, CsLowEffect, CsHighEffect: chip-select undriven, high and low. -/
theorem witness_select : State.reset.fop = .idle ∧ inited.fop = .idle ∧ opened.fop = .idle ∧ inited.en = true ∧
    opened.en = true ∧ State.reset.csN = none ∧ inited.csN = some true ∧ opened.csN = some false := by decide
/-- XchgEffect, the frame effects, FrameAtomicity, FrameWireIgnoresSlave, RawFrameEquivalent: chip-select high. -/
theorem witness_ready : Ready inited ∧ inited.csN = some true ∧ isFrame (fopOf (.fRdrxb 0 0 0)) = true ∧
    framesOf inited.cfg (.fRead 0x05 0 0) = some [[0x03, 0x05, 0x00]] ∧
    framesOf inited.cfg (.fRts 0x02 0 0) = some [[0x84]] ∧
    framesOf inited.cfg (.fRdrxb 0x01 0x01 0) = some [[0x96, 0x00], [0x05, 0x2C, 0x02, 0x00]] ∧
    resultByte (.fRdrxb 0x01 0x01 0) = some 1 := by decide
/-- FrameWireIgnoresSlave: two slaves that differ. -/
theorem witness_two_slaves : Ready (withRegs [(0x05, 0xAB)]) ∧ (withRegs [(0x05, 0xAB)]).csN = some true ∧
    (withRegs [(0x05, 0xAB)]).cfg = inited.cfg := ⟨by decide, by decide, rfl⟩
/-- XchgEffect, FrameInsideOpenFrame, XchgReturnsSamples: chip-select low. -/
theorem witness_open : Ready opened ∧ opened.csN = some false ∧ opened.slave = .oracle ∧
    { opened with answers := byteBits 0x3C ++ [true] }.answers = byteBits 0x3C ++ [true] ∧
    isFrame (fopOf (.fRts 0x03 0 0)) = true ∧ framesOf opened.cfg (.fRdstat 0 0 0) = some [[0xA0, 0x00]] := by decide
/-- FRtsEffect and FRtsOutOfRange at the boundary: of the range, and of the byte. -/
theorem witness_rts : (2 : Byte).toNat < inited.cfg.N_TX_BUF ∧ (2 : Byte).toNat < 8 ∧
    ¬((3 : Byte).toNat < inited.cfg.N_TX_BUF ∧ (3 : Byte).toNat < 8) ∧ Ready { inited with cfg := wide } ∧
    (7 : Byte).toNat < wide.N_TX_BUF ∧ (7 : Byte).toNat < 8 ∧ (8 : Byte).toNat < wide.N_TX_BUF ∧
    ¬((8 : Byte).toNat < wide.N_TX_BUF ∧ (8 : Byte).toNat < 8) := by decide
/-- FRdrxbEffect and FRdrxbOutOfRange at the boundary of each selector, of its range and of the byte. -/
theorem witness_rdrxb : (1 : Byte).toNat < inited.cfg.N_RX_BUF ∧ (1 : Byte).toNat < 2 ∧
    (1 : Byte).toNat <<< inited.cfg.RDRXB_BUF_SHIFT < 256 ∧ (1 : Byte).toNat <<< inited.cfg.RDRXB_DATA_SHIFT < 256 ∧
    inited.cfg.RXIF_BIT[(1 : Byte).toNat]? = some 0x02 ∧ ¬((2 : Byte).toNat < inited.cfg.N_RX_BUF) ∧
    ¬((2 : Byte).toNat < 2) ∧ (0 : Byte).toNat <<< wide.RDRXB_BUF_SHIFT < 256 ∧
    (1 : Byte).toNat <<< wide.RDRXB_DATA_SHIFT < 256 ∧ ¬((1 : Byte).toNat <<< wide.RDRXB_BUF_SHIFT < 256) := by decide
/-- The commands whose byte the spec does not state run all the same (log 23). -/
theorem test_selectors_outside_byte :
    (after (exec (.fRts 0x08 0 0) { inited with cfg := wide })).fop = .idle ∧
    (after (exec (.fRdrxb 0x01 0x00 0) { inited with cfg := wide })).fop = .idle ∧
    rdrxbByte wide 0x00 0x01 = some 0x90 ∧ rdrxbByte wide 0x01 0x00 = none ∧ rtsByte wide 0x08 = none := by decide
/-- FairEngineCompletes, RestingChangesNothing, StepKeepsInvariants between commands. -/
theorem witness_inv_idle : Inv inited ∧ EngineFair inited ∧ inited.resetIn = none := by
  refine ⟨?_, by decide, by decide⟩
  constructor <;> decide
/-- FairEngineCompletes: as many engine steps as an XCHG has, and one less. -/
theorem witness_steps : Idling { inited with sched := some 16 } ∧ Idling { inited with sched := some 15 } := by decide
/-- The same inside a frame, EdgesAlternate at each edge, and HangIsKept. -/
theorem witness_inv_flying : Inv hung ∧ Inv { hung with sched := none } ∧ hung.busy = true ∧ hung.sck = some true ∧
    hung.sched = some 0 ∧ hung.resetIn = none ∧ hung.inputs = [] := by
  refine ⟨?_, ?_, by decide⟩ <;> constructor <;> decide
theorem witness_inv_low : Inv hungLow ∧ hungLow.busy = true ∧ hungLow.sck = some false ∧ hungLow.sched = some 0 := by
  refine ⟨?_, by decide⟩
  constructor <;> decide
/-- StepKeepsWaveform: undriven, between commands, and inside a frame. -/
theorem witness_wire : WireOk State.reset ∧ WireOk opened ∧ WireOk hung ∧ WireOk hungLow := by
  unfold WireOk
  decide
/-- StepKeepsInvariants, StepKeepsConfig, RecordsOnlyGrow, StepKeepsMemoryForm: a step that answers. -/
theorem witness_step : step hung = .next hung ∧ hung.ref.sreg.wf = true ∧ (withRegs [(0x05, 0xAB)]).ref.sreg.wf = true := by
  refine ⟨?_, by decide, by decide⟩
  have h : hung.inputs = [] := by decide
  have hs : smallStep hung = none := Option.isNone_iff_eq_none.mp (by decide)
  unfold step
  rw [h]
  exact congrArg Host.Outcome.next (runFor_hung (by decide) hs _)
/-- BreachesRecorded: commands that need the block enabled, at each level, and SPI_INIT and the calculator at all three. -/
theorem witness_bracket : inited.fop = .idle ∧ inited.en = true ∧ opened.fop = .idle ∧ opened.en = true ∧
    needsEnable (.spiInit 0 0 0) = false ∧ needsEnable (.btTq 0 0 0) = false ∧ State.reset.csN = none ∧
    inited.csN = some true ∧ opened.csN = some false := by decide
/-- R256, U1, U2, U5: the breaches at each level. -/
theorem test_bracket :
    (after (exec (.xchg 0xA5 0 0) inited)).breaches = [.bracket .xchg] ∧
    (after (exec (.xchg 0xA5 0 0) opened)).breaches = [] ∧
    (after (exec (.csHigh 0 0 0) inited)).breaches = [.bracket .csHigh] ∧
    (after (exec (.csHigh 0 0 0) opened)).breaches = [] ∧
    (after (exec (.fReset 0 0 0) inited)).breaches = [] ∧ inited.breaches = [] ∧
    (after (exec (.btTq 1 0 0) opened)).breaches = [] := by decide
/-- CalculatorPure: two blocks of one configuration. -/
theorem witness_calculator : isCalculator (.btNbt 1 2 2) = true ∧ State.reset.fop = .idle ∧ opened.fop = .idle ∧
    State.reset.cfg = opened.cfg := ⟨by decide, by decide, by decide, rfl⟩
/-- UnpackRecoversFields, BrpForInvertsTq at the largest fields that fit. -/
theorem witness_fields : Cfg.default.W_BRP = 6 ∧ Cfg.default.W_PROP = 3 ∧ Cfg.default.W_PS1 = 3 ∧ Cfg.default.W_PS2 = 3 ∧
    Cfg.default.PS1_SHIFT = 3 ∧ btFits Cfg.default 63 7 7 7 = true ∧ 0 < Cfg.default.F_OSC_HZ ∧
    (63 : Byte).toNat < 2 ^ Cfg.default.W_BRP := by decide
theorem witness_brp : btBrpFor Cfg.default (1 / 125000) = some 63 := by decide +kernel
/-- LoopbackCheck: both results of a byte read, no byte read, and a read in progress. -/
theorem witness_loopback : { inited with inputs := [.checkLoopback] }.fop = .idle ∧ inited.modeRead = none ∧
    { inited with modeRead := some 0x80 }.modeRead = some 0x80 ∧
    ((0x80 : Byte) &&& inited.cfg.MODE_MASK) ≠ inited.cfg.MODE_LOOPBACK ∧
    ((0x40 : Byte) &&& inited.cfg.MODE_MASK) = inited.cfg.MODE_LOOPBACK ∧
    reading.inputs = [.checkLoopback] ∧ reading.fop = .fRead ∧ reading.opa = reading.cfg.ADDR_CANSTAT := by decide
theorem witness_loopback_inv : Inv reading := by constructor <;> decide
/-- The statements on the reference slave, among them BitmodUpdatesRegister with the mode clause. -/
theorem witness_reference : Cfg.default.cmdDistinct = true ∧ AddrDistinct Cfg.default ∧
    Ready (withRegs [(0x2C, 0x03), (0x66, 0x5A)]) ∧ (withRegs [(0x2C, 0x03), (0x66, 0x5A)]).csN = some true ∧
    (withRegs [(0x2C, 0x03), (0x66, 0x5A)]).slave = .reference ∧
    (withRegs [(0x2C, 0x03), (0x66, 0x5A)]).ref.sreg.wf = true ∧
    (withRegs [(0x2C, 0x03), (0x66, 0x5A)]).cfg.RXIF_BIT[(0 : Byte).toNat]? = some 0x01 ∧
    (withRegs [(0x2C, 0x03), (0x66, 0x5A)]).cfg.cmdDistinct = true ∧
    (withRegs [(0x2C, 0x03), (0x66, 0x5A)]).slave ≠ .oracle ∧
    (0x0F : Byte) = Cfg.default.ADDR_CANCTRL ∧ (0xE0 : Byte) = Cfg.default.MODE_MASK ∧
    (0 : Byte).toNat <<< Cfg.default.RDRXB_BUF_SHIFT < 256 ∧ (1 : Byte).toNat <<< Cfg.default.RDRXB_DATA_SHIFT < 256 := by
  decide
/-- The same with the stuck variant. -/
theorem witness_reference_stuck : Ready { withRegs [(0x2C, 0x03)] with slave := .referenceStuck } ∧
    { withRegs [(0x2C, 0x03)] with slave := .referenceStuck }.slave ≠ .oracle := by decide
theorem witness_reference_valid : (refView Cfg.default false).valid (refInit Cfg.default) := by
  unfold refView
  decide

theorem single_waits (n : Nat) (st : List Byte × Byte) : single.waits n st = st := by
  induction n with
  | zero => rfl
  | succ n ih => exact ih

/-- PremisesGiveResponses: one slave meets every premise. -/
theorem witness_premises : single.valid ([], 0x80) ∧ SlaveKeeps single ∧ SlaveRead Cfg.default single ∧
    SlaveStatus Cfg.default single ∧ SlaveWrite Cfg.default single (fun _ => True) ∧
    SlaveBitMod Cfg.default single (fun _ => True) ∧ SlaveReset Cfg.default single ∧ SlaveMode Cfg.default single ∧
    SlaveRxClear Cfg.default single := by
  refine ⟨trivial, fun _ _ => ⟨trivial, fun _ => trivial⟩, fun _ _ _ _ _ => rfl, fun _ _ _ _ => rfl,
    fun _ _ _ _ => ⟨fun _ => rfl, rfl⟩, fun _ _ _ _ _ _ => rfl, fun _ _ => rfl, ?_, ?_⟩
  · intro st f m _ hf
    refine ⟨0, fun n _ => ?_⟩
    rw [single_waits]
    obtain ⟨x, rfl, rfl⟩ | ⟨mask, x, rfl, _, rfl⟩ := hf
    · rfl
    · rfl
  · intro st b mask _ _ _
    show maskedUpdate st.2 mask 0x00 &&& mask = 0
    unfold maskedUpdate
    ext k
    simp
/-- OracleAnswersAsSlave, PremisesGiveResponses: for every session there is an oracle that answers as that slave does. -/
theorem witness_oracle (fs : List (Nat × List Byte)) : Ready (answering fs) ∧ (answering fs).csN = some true ∧
    (answering fs).cfg = Cfg.default ∧ OracleIs single ([], 0x80) fs [] (answering fs) := by
  refine ⟨?_, ?_, rfl, ?_, (List.append_nil _).symm⟩
  · exact (by decide : Ready inited)
  · exact (by decide : inited.csN = some true)
  · exact (by decide : inited.slave = .oracle)
/-- The frames of those statements: a mode request by write and by bit-modify, and F_RDRXB with its mask. -/
theorem witness_requests :
    ModeRequest Cfg.default 0x87 [0x02, 0x0F, 0x40] 0x40 ∧ ModeRequest Cfg.default 0x87 [0x05, 0x0F, 0x60, 0x40] 0xC0 ∧
    framesOf Cfg.default (.fWrite 0x0F 0x40 0) = some [[0x02, 0x0F, 0x40]] ∧
    framesOf Cfg.default (.fBitmod 0x0F 0x60 0x40) = some [[0x05, 0x0F, 0x60, 0x40]] ∧
    framesOf Cfg.default (.fRdrxb 0x00 0x01 0) = some [[0x92, 0x00], [0x05, 0x2C, 0x01, 0x00]] ∧
    Cfg.default.RXIF_BIT[(0x00 : Byte).toNat]? = some 0x01 := by
  refine ⟨.inl ⟨0x40, by decide⟩, .inr ⟨0x60, 0x40, by decide⟩, by decide⟩

end Sys2Proof.Tests
end

section
/-! The command encoding (30_encoding.md R92 to R94, R98, R106): the decoder and the encoder are inverse to each other
on the legal words. The word's layout is said by `fields_wordOf` and `wordOf_fields`, the opcode map by
`decodeFields_instr` and `decodeFields_eq_ok`. -/

namespace Sys2Proof

/-- The four fields of R92 cover the word: put together again they are the word. -/
@[simp] theorem wordOf_fields (w : CmdWord) : wordOf (fieldOp w) (fieldA w) (fieldB w) (fieldC w) = w := by
  unfold wordOf fieldOp fieldA fieldB fieldC
  rw [BitVec.extractLsb'_append_extractLsb'_eq_extractLsb' (by rfl),
    BitVec.extractLsb'_append_extractLsb'_eq_extractLsb' (by rfl),
    BitVec.extractLsb'_append_extractLsb'_eq_extractLsb' (by rfl)]
  simp

/-- The decoder reads a word put together from four fields by the opcode map on these fields. -/
@[simp] theorem decode_wordOf (op a b c : Byte) : decode (wordOf op a b c) = decodeFields op a b c := by
  obtain ⟨hop, ha, hb, hc⟩ := fields_wordOf op a b c
  rw [decode, hop, ha, hb, hc]

/-- The opcode map gives a command back from its own operation and operands (R94): one row of the map for each command. -/
@[simp] theorem decodeFields_instr (i : Instr) : decodeFields i.op i.a i.b i.c = .ok i := by
  cases i <;> rfl

/-- What the opcode map accepts: a command read from four fields has exactly these fields. -/
theorem decodeFields_eq_ok {op a b c : Byte} {i : Instr} (h : decodeFields op a b c = .ok i) :
    i.op = op ∧ i.a = a ∧ i.b = b ∧ i.c = c := by
  unfold decodeFields at h
  split at h <;> cases h
  all_goals exact ⟨BitVec.eq_of_toNat_eq (Eq.symm ‹_›), rfl, rfl, rfl⟩

/-- Settles O2: the word's layout (`decode_wordOf`), then the opcode map (`decodeFields_instr`). The premise is not needed,
as every term of `Instr` is well formed (R93, R99). -/
theorem decodeOfEncode : Obligations.DecodeOfEncode := by
  unfold Obligations.DecodeOfEncode
  intro i _
  calc decode (encode i) = decodeFields i.op i.a i.b i.c := decode_wordOf i.op i.a i.b i.c
    _ = .ok i := decodeFields_instr i

/-- Settles O3: the decoded command has the word's fields (`decodeFields_eq_ok`), and these are the whole word. -/
theorem encodeOfDecode : Obligations.EncodeOfDecode := by
  unfold Obligations.EncodeOfDecode
  intro w i h
  obtain ⟨hop, ha, hb, hc⟩ := decodeFields_eq_ok h
  calc encode i = wordOf (fieldOp w) (fieldA w) (fieldB w) (fieldC w) := by rw [encode, hop, ha, hb, hc]
    _ = w := wordOf_fields w

/-- Settles O1: the decoder evaluated on the seven words. -/
theorem specWordsDecode : Obligations.SpecWordsDecode := by
  unfold Obligations.SpecWordsDecode
  decide

end Sys2Proof
end

section
/-! Chip-select as a command (40_transport.md R123, R124): the refusal that every transport and frame command shares
(30_encoding.md R97), what `selectLow` and `selectHigh` write, and the two commands from acceptance to response. -/

namespace Sys2Proof.Machine

/-- While `EN = 0` the body of a command that needs the block enabled is the refusal (R97). -/
theorem bodyOf_off {i : Instr} {s : State} (hi : needsEnable i = true) (hen : s.en = false) :
    bodyOf i s = refuse s := by
  cases i
  case spiInit | btTq | btSeglen | btPack1 | btPack2 | btPack3 | btNbt => exact Bool.noConfusion hi
  all_goals simp only [bodyOf, whenEnabled_off hen]

/-- A command refused while `EN = 0` (R97). To the host a refused read of the mode has returned nothing (log 18). -/
theorem exec_refused (i : Instr) {s : State} (hf : s.fop = .idle) (hen : s.en = false) (hi : needsEnable i = true) :
    exec i s = .next { refusedState s i.a i.b i.c with
      modeRead := if ReadsMode s.cfg (fopOf i) i.a then none else s.modeRead } :=
  calc exec i s = .next (bodyOf i (accept (fopOf i) i.a i.b i.c s)) := exec_open i hf
    _ = .next (refuse (accept (fopOf i) i.a i.b i.c s)) := congrArg _ (bodyOf_off hi hen)

/-- What CS_LOW as a primitive writes: the level and the event when chip-select was high, and perhaps the slave. -/
theorem selectLow_frame (s : State) : selectLow s =
    { s with
      csN := if s.csN = some true then some false else s.csN
      trace := if s.csN = some true then s.trace ++ [.csFall] else s.trace
      ref := (selectLow s).ref } := by
  unfold selectLow
  split
  · rw [slaveCsFall_eq]
    rfl
  · rfl

/-- Where chip-select does not fall, CS_LOW changes nothing. -/
theorem selectLow_of_not_high {s : State} (h : s.csN ≠ some true) : selectLow s = s := if_neg h

/-- The fall of chip-select writes no register of the reference slave (20_memory.md R81). -/
theorem slaveCsFall_sreg (s : State) : (slaveCsFall s).ref.sreg = s.ref.sreg := by
  rw [slaveCsFall_ref]
  split <;> rfl

theorem selectLow_sreg (s : State) : (selectLow s).ref.sreg = s.ref.sreg := by
  unfold selectLow
  split
  · exact slaveCsFall_sreg _
  · rfl

/-- What CS_HIGH as a primitive writes: the level and the event, when chip-select was low. -/
theorem selectHigh_frame (s : State) : selectHigh s =
    { s with
      csN := if s.csN = some false then some true else s.csN
      trace := if s.csN = some false then s.trace ++ [.csRise] else s.trace } := by
  unfold selectHigh
  split <;> rfl

/-- CS_LOW in an enabled block, from acceptance to response. -/
theorem exec_csLow (a b c : Byte) {s : State} (hf : s.fop = .idle) (hen : s.en = true) :
    exec (.csLow a b c) s = .next (respond 0 (selectLow (noteBreach (accept .csLow a b c s)))) :=
  (exec_open _ hf).trans (congrArg _ (whenEnabled_on (body := fun t => respond 0 (selectLow t)) hen))

/-- CS_HIGH in an enabled block, from acceptance to response. -/
theorem exec_csHigh (a b c : Byte) {s : State} (hf : s.fop = .idle) (hen : s.en = true) :
    exec (.csHigh a b c) s = .next (respond 0 (selectHigh (noteBreach (accept .csHigh a b c s)))) :=
  (exec_open _ hf).trans (congrArg _ (whenEnabled_on (body := fun t => respond 0 (selectHigh t)) hen))

/-- Settles O11: the refusal is `exec_refused`; in an enabled block the state is the one of `exec_csLow`, of which
`noteBreach_eq` and `selectLow_frame` say every field. -/
theorem csLowEffect : Obligations.CsLowEffect := by
  unfold Obligations.CsLowEffect
  intro a b c s hf
  refine ⟨decode_wordOf 0x01 a b c, fun hen => exec_refused (.csLow a b c) hf hen rfl, fun hen => ?_⟩
  have hnote := noteBreach_eq (accept .csLow a b c s)
  have hexec := exec_csLow a b c hf hen
  generalize noteBreach (accept .csLow a b c s) = u at hnote hexec
  refine ⟨_, hexec, ?_, fun hlow => ?_, ?_⟩
  · show (selectLow u).ref.sreg = s.ref.sreg
    rw [selectLow_sreg, hnote]
    rfl
  · have hu : u.csN ≠ some true := by
      rw [hnote]
      simp [accept, hlow]
    rw [selectLow_of_not_high hu, hnote]
    rfl
  · rw [selectLow_frame, hnote]
    cases s
    cases hf
    rfl

/-- Settles O12: the refusal is `exec_refused`; in an enabled block the state is the one of `exec_csHigh`, of which
`noteBreach_eq` and `selectHigh_frame` say every field. -/
theorem csHighEffect : Obligations.CsHighEffect := by
  unfold Obligations.CsHighEffect
  intro a b c s hf
  refine ⟨decode_wordOf 0x02 a b c, fun hen => exec_refused (.csHigh a b c) hf hen rfl, fun hen => ?_⟩
  refine ⟨_, exec_csHigh a b c hf hen, ?_⟩
  rw [selectHigh_frame, noteBreach_eq]
  cases s
  cases hf
  rfl

end Sys2Proof.Machine
end

section
/-! The bit-timing calculator as commands (42_bittiming.md R182, R185): a calculator command is accepted and answered at
once, so that only its latches, FIDX and the response are written; its response word holds the result as a number. -/

namespace Sys2Proof.Machine

/-- The response word holds the number in DATA, as the bits of ERR are 0 (30_encoding.md R95). -/
theorem okWord_eq_ofNat (d : RespData) : okWord d = BitVec.ofNat 16 d.toNat := by
  have hd : d.toNat < 2 ^ 16 := d.isLt.trans (by decide)
  apply BitVec.eq_of_toNat_eq
  calc (okWord d).toNat = (0#6).toNat <<< 10 ||| d.toNat := BitVec.toNat_append 0#6 d
    _ = d.toNat := by simp
    _ = d.toNat % 2 ^ 16 := (Nat.mod_eq_of_lt hd).symm

/-- A byte is zero-extended to 10 bits without loss (R192). -/
@[simp] theorem zext10_toNat (v : Byte) : (zext10 v).toNat = v.toNat :=
  BitVec.toNat_setWidth_of_le (by decide)

/-- The length of a segment (R182) as a number: the largest, 256, is still inside the 10 bits of R192. -/
theorem btSeglen_toNat (field : Byte) : (btSeglen field).toNat = field.toNat + 1 := by
  have hlt : field.toNat < 256 := field.isLt
  calc (btSeglen field).toNat = ((zext10 field).toNat + 1) % 1024 := BitVec.toNat_add (zext10 field) 1
    _ = field.toNat + 1 := by rw [zext10_toNat, Nat.mod_eq_of_lt (by omega)]

/-- A command other than F_READ that is answered where it is accepted writes its latches, FIDX and the response. -/
theorem respond_accept (f : Fop) (a b c : Byte) (d : RespData) {s : State} (hf : s.fop = .idle) (hr : f ≠ .fRead) :
    respond d (accept f a b c s) = { s with opa := a, opb := b, opc := c, fidx := 0, rsp := okWord d } := by
  have hmode : ¬ ReadsMode s.cfg f a := fun h => hr h.1
  simp [respond, accept, hf, hmode]

/-- Settles O33: the body of the command is `respond` where it is accepted (`respond_accept`), with the number of
`btSeglen_toNat`. -/
theorem btSeglenEffect : Obligations.BtSeglenEffect := by
  unfold Obligations.BtSeglenEffect
  intro a b c s hf
  calc exec (.btSeglen a b c) s = .next (respond (btSeglen a) (accept .btSeglen a b c s)) := exec_open _ hf
    _ = .next { s with opa := a, opb := b, opc := c, fidx := 0, rsp := BitVec.ofNat 16 (a.toNat + 1) } := by
      rw [respond_accept _ a b c _ hf (by decide), okWord_eq_ofNat, btSeglen_toNat]

/-- Settles O36: the body of the command is `respond` where it is accepted (`respond_accept`), with the operand itself
zero-extended (`zext10_toNat`). -/
theorem btPackThreeEffect : Obligations.BtPackThreeEffect := by
  unfold Obligations.BtPackThreeEffect
  intro a b c s hf
  calc exec (.btPack3 a b c) s = .next (respond (zext10 (btPack3 a)) (accept .btPack3 a b c s)) := exec_open _ hf
    _ = .next { s with opa := a, opb := b, opc := c, fidx := 0, rsp := BitVec.ofNat 16 a.toNat } := by
      rw [respond_accept _ a b c _ hf (by decide), okWord_eq_ofNat, zext10_toNat, btPack3]

end Sys2Proof.Machine
end

section
/-! The invariants of the block (10_state.md R44). Between transfers they say no more than `AtRest`, which every one-step
command keeps; the small steps of a transfer and the sequencer keep them one by one; so every run and every step of the
machine does. -/

namespace Sys2Proof.Machine

/-- The block between transfers, whatever command it is in: what the invariants say there of the flags, the control fields
and the lines. -/
structure AtRest (s : State) : Prop where
  notBusy : s.busy = false
  taken : s.tc = false
  bitcnt : s.bitcnt = 0 ∨ s.bitcnt = 8
  ieZero : s.ie = false
  sckIdle : s.en = true → s.sck = some true
  controlFields : s.en = true → s.mstr = true ∧ s.dord = false ∧ s.cpol = true ∧ s.cpha = true
  selectDriven : s.en = true → s.csN ≠ none
  undriven : s.en = false → s.csN = none ∧ s.sck = none ∧ s.mosi = none

/-- The form of a response word (30_encoding.md R95, R96): zeros in bits 14:10, and with `ERR = 1` it is 0x8000. -/
abbrev RespForm (r : RespWord) : Prop := r.extractLsb' 10 5 = 0 ∧ (r.getLsbD 15 = true → r = 0x8000)

theorem respForm_okWord (d : RespData) : RespForm (okWord d) := by
  have high : ∀ i, 10 ≤ i → (okWord d).getLsbD i = false := by
    intro i hi
    unfold okWord
    rw [BitVec.getLsbD_append, if_neg (by omega)]
    simp
  refine ⟨BitVec.eq_of_getLsbD_eq fun i hi => ?_, fun h => ?_⟩
  · rw [BitVec.getLsbD_extractLsb', high _ (by omega)]
    simp
  · rw [high 15 (by omega)] at h
    cases h

/-- Where the primitive is no exchange the block rests (40_transport.md R120). -/
theorem Inv.atRest {s : State} (h : Inv s) (hp : isXchg (currentPrim s) = false) : AtRest s := by
  have idle : ¬ (s.busy = true ∨ s.tc = true) := fun hf => by simp [h.flagsAtExchange hf] at hp
  have hb : s.busy = false := by simpa using fun e => idle (.inl e)
  have ht : s.tc = false := by simpa using fun e => idle (.inr e)
  exact { h with
    notBusy := hb
    taken := ht
    bitcnt := h.bitcntResting hb
    sckIdle := h.sckIdle hb
    selectDriven := fun e => (h.driven e).1 }

/-- With no command in progress there is no primitive. -/
theorem currentPrim_idle {s : State} (hf : s.fop = .idle) : currentPrim s = none := by
  simp [currentPrim, script, hf]

theorem Inv.atRest_idle {s : State} (h : Inv s) (hf : s.fop = .idle) : AtRest s :=
  h.atRest (by rw [currentPrim_idle hf]; rfl)

/-- A block at rest with no command in progress meets the invariants. -/
theorem AtRest.inv {s : State} (h : AtRest s) (hf : s.fop = .idle) (hx : s.fidx = 0) (hr : RespForm s.rsp) : Inv s where
  busyEnabled := by simp [h.notBusy]
  bitcntRange := by obtain e | e := h.bitcnt <;> simp [e]
  bitcntFlying := by simp [h.notBusy]
  sckIdle := fun _ => h.sckIdle
  bitcntResting := fun _ => h.bitcnt
  flagsExclusive := by simp [h.notBusy]
  ieZero := h.ieZero
  controlFields := h.controlFields
  driven := fun e => ⟨h.selectDriven e, by simp [h.sckIdle e]⟩
  undriven := h.undriven
  inProgressEnabled := fun e => absurd hf e
  flagsAtExchange := by simp [h.notBusy, h.taken]
  fidxRange := by simp [hx]
  fidxIdle := fun _ => hx
  frameSelected := by simp [hf, isFrame]
  responseForm := hr
  readCompleted := by simp [ReadsMode, hf]

theorem AtRest.inv_respond {s : State} (h : AtRest s) (d : RespData) : Inv (respond d s) :=
  AtRest.inv { h with } rfl rfl (respForm_okWord d)

theorem AtRest.inv_refuse {s : State} (h : AtRest s) : Inv (refuse s) :=
  AtRest.inv { h with } rfl rfl (show RespForm 0x8000 by decide)

theorem inv_hardReset (s : State) : Inv (hardReset s) := by
  refine AtRest.inv ?_ rfl rfl (show RespForm 0 by decide)
  exact ⟨rfl, rfl, .inl rfl, rfl, nofun, nofun, nofun, fun _ => ⟨rfl, rfl, rfl⟩⟩

theorem AtRest.accept {s : State} (h : AtRest s) (f : Fop) (a b c : Byte) : AtRest (accept f a b c s) := { h with }

theorem AtRest.noteBreach {s : State} (h : AtRest s) : AtRest (noteBreach s) := by
  rw [noteBreach_eq]
  exact { h with }

theorem AtRest.initSpi {s : State} (h : AtRest s) : AtRest (initSpi s) := by
  unfold Machine.initSpi
  simp only []
  split <;> exact ⟨h.notBusy, h.taken, .inl rfl, h.ieZero, fun _ => rfl, fun _ => ⟨rfl, rfl, rfl, rfl⟩, nofun, nofun⟩

theorem AtRest.selectLow {s : State} (h : AtRest s) : AtRest (selectLow s) := by
  rw [selectLow_frame]
  refine { h with selectDriven := fun hen => ?_, undriven := fun hen => ?_ }
  · show (if s.csN = some true then some false else s.csN) ≠ none
    split
    · simp
    · exact h.selectDriven hen
  · obtain ⟨hc, hk, hm⟩ := h.undriven hen
    exact ⟨by simp [hc], hk, hm⟩

theorem AtRest.selectHigh {s : State} (h : AtRest s) : AtRest (selectHigh s) := by
  rw [selectHigh_frame]
  refine { h with selectDriven := fun hen => ?_, undriven := fun hen => ?_ }
  · show (if s.csN = some false then some true else s.csN) ≠ none
    split
    · simp
    · exact h.selectDriven hen
  · obtain ⟨hc, hk, hm⟩ := h.undriven hen
    exact ⟨by simp [hc], hk, hm⟩

/-- A primitive stands before the end of the script. -/
theorem fidx_lt_of_currentPrim {s : State} {p : Prim} (hp : currentPrim s = some p) :
    s.fidx.toNat < (script s).length := (List.getElem?_eq_some_iff.mp hp).1

/-- `FIDX` does not wrap: no script is that long. -/
theorem fidx_succ_toNat {s : State} {p : Prim} (hp : currentPrim s = some p) :
    (s.fidx + 1).toNat = s.fidx.toNat + 1 := by
  have hlt := fidx_lt_of_currentPrim hp
  have hlen := script_length s
  rw [BitVec.toNat_add]
  simp
  omega

theorem currentPrim_nextPrim {s : State} {p : Prim} (hp : currentPrim s = some p) :
    currentPrim (nextPrim s) = (script s)[s.fidx.toNat + 1]? := by
  rw [← fidx_succ_toNat hp]
  rfl

theorem running_of_currentPrim {s : State} {p : Prim} (hp : currentPrim s = some p) : s.fop ≠ .idle := by
  intro hf
  rw [currentPrim_idle hf] at hp
  cases hp

/-- In a list of primitives a CS_LOW or the end follows each CS_HIGH. -/
def HighEnds : List Prim → Prop
  | [] => True
  | .csHigh :: rest => (rest.head? = none ∨ rest.head? = some .csLow) ∧ HighEnds rest
  | .csLow :: rest | .xchg _ _ :: rest => HighEnds rest

theorem HighEnds.next {l : List Prim} {k : Nat} (h : HighEnds l) (hk : l[k]? = some .csHigh) :
    l[k + 1]? = none ∨ l[k + 1]? = some .csLow := by
  induction l generalizing k with
  | nil => simp at hk
  | cons p rest ih =>
    cases k with
    | zero =>
      obtain rfl : p = .csHigh := by simpa using hk
      simpa [List.head?_eq_getElem?] using h.1
    | succ k =>
      refine ih ?_ (by simpa using hk)
      cases p with
      | csHigh => exact h.2
      | csLow | xchg => exact h

/-- Every script is a sequence of whole frames, or one exchange (41_frames.md R150). -/
theorem script_highEnds (s : State) : HighEnds (script s) := by
  unfold script
  split <;> simp [xchgScript, fResetScript, fReadScript, fWriteScript, fBitmodScript, fRtsScript, fRdstatScript,
    fRdrxbScript, frame, HighEnds]

theorem csHigh_next {s : State} (hp : currentPrim s = some .csHigh) :
    currentPrim (nextPrim s) = none ∨ currentPrim (nextPrim s) = some .csLow := by
  rw [currentPrim_nextPrim hp]
  exact (script_highEnds s).next hp

/-- The sequencer goes on after a primitive that leaves the flags clear and, unless the frame ends, the slave selected. -/
theorem Inv.next {s : State} {p : Prim} (h : Inv s) (hp : currentPrim s = some p) (hb : s.busy = false)
    (ht : s.tc = false) (hc : isFrame s.fop = true →
      (isXchg (currentPrim (nextPrim s)) = true ∨ currentPrim (nextPrim s) = some .csHigh) → s.csN = some false) :
    Inv (nextPrim s) :=
  { h with
    flagsAtExchange := by simp [hb, ht]
    fidxRange := (fidx_succ_toNat hp).trans_le (fidx_lt_of_currentPrim hp)
    fidxIdle := fun hf => absurd (show s.fop = .idle from hf) (running_of_currentPrim hp)
    frameSelected := hc }

/-- CS_LOW as a primitive selects the slave. -/
theorem selectLow_csN {s : State} (h : s.csN ≠ none) : (selectLow s).csN = some false := by rw [selectLow_eq h]

theorem Inv.selectLow {s : State} (h : Inv s) : Inv (selectLow s) := by
  by_cases hen : s.en = true
  · rw [selectLow_eq (h.driven hen).1]
    exact { h with
      driven := fun _ => ⟨nofun, (h.driven hen).2⟩
      undriven := fun he => absurd (hen.symm.trans he) nofun
      frameSelected := fun _ _ => rfl }
  · rwa [selectLow_of_not_high]
    rw [(h.undriven (by simpa using hen)).1]
    nofun

/-- The primitive CS_LOW of a frame (40_transport.md R123). -/
theorem Inv.next_selectLow {s : State} (h : Inv s) (hp : currentPrim s = some .csLow) :
    Inv (nextPrim (Machine.selectLow s)) := by
  have hrest := h.atRest (by rw [hp]; rfl)
  have hlow := selectLow_eq (h.driven (h.inProgressEnabled (running_of_currentPrim hp))).1
  refine h.selectLow.next (p := .csLow) ?_ ?_ ?_ ?_
  all_goals rw [hlow]
  · exact hp
  · exact hrest.notBusy
  · exact hrest.taken
  · exact fun _ _ => rfl

/-- The primitive CS_HIGH of a frame (R124): no exchange follows it. -/
theorem Inv.next_selectHigh {s : State} (h : Inv s) (hp : currentPrim s = some .csHigh) :
    Inv (nextPrim (selectHigh s)) := by
  have hrest := (h.atRest (by rw [hp]; rfl)).selectHigh
  rw [selectHigh_frame] at hrest ⊢
  exact { h with
    flagsAtExchange := fun hf => by
      obtain e | e := hf
      · cases hrest.notBusy.symm.trans e
      · cases hrest.taken.symm.trans e
    driven := fun hen => ⟨hrest.selectDriven hen, (h.driven hen).2⟩
    undriven := hrest.undriven
    fidxRange := (fidx_succ_toNat hp).trans_le (fidx_lt_of_currentPrim hp)
    fidxIdle := fun hf => absurd (show s.fop = .idle from hf) (running_of_currentPrim hp)
    frameSelected := by
      intro _ hx
      have hx : isXchg (currentPrim (nextPrim s)) = true ∨ currentPrim (nextPrim s) = some .csHigh := hx
      obtain e | e := csHigh_next hp <;> simp [e, isXchg] at hx }

/-- The byte of an exchange inside a frame is taken (R129). -/
theorem Inv.next_takeByte {s : State} (h : Inv s) {out : Option Byte} {result : Bool}
    (hp : currentPrim s = some (.xchg out result)) (ht : s.tc = true) : Inv (nextPrim (takeByte result s)) := by
  have hb : s.busy = false := by simpa using fun hb => h.flagsExclusive ⟨ht, hb⟩
  have hu : Inv (flagsTaken s) := { h with
    flagsExclusive := nofun
    flagsAtExchange := fun _ => by rw [show currentPrim (flagsTaken s) = _ from hp]; rfl }
  have hnext : Inv (nextPrim (flagsTaken s)) :=
    hu.next hp hb rfl fun hf _ => h.frameSelected hf (.inl (by rw [hp]; rfl))
  cases result with
  | false => exact hnext
  | true => exact { hnext with responseForm := respForm_okWord _ }

/-- The command XCHG responds in its finish step (R129). -/
theorem Inv.respond_xchg {s : State} (h : Inv s) (ht : s.tc = true) (d : RespData) :
    Inv (respond d (flagsTaken s)) := by
  have hb : s.busy = false := by simpa using fun hb => h.flagsExclusive ⟨ht, hb⟩
  refine AtRest.inv_respond ?_ d
  exact { h with
    notBusy := hb
    taken := rfl
    bitcnt := h.bitcntResting hb
    sckIdle := h.sckIdle hb
    selectDriven := fun e => (h.driven e).1 }

/-- The start step (R125). -/
theorem Inv.afterStart {s : State} (h : Inv s) {out : Option Byte} {result : Bool}
    (hp : currentPrim s = some (.xchg out result)) (hen : s.en = true) : Inv (afterStart out s) :=
  { h with
    busyEnabled := fun _ => hen
    bitcntRange := Nat.zero_le _
    bitcntFlying := fun _ => by simp [Machine.afterStart]
    sckIdle := nofun
    bitcntResting := nofun
    flagsExclusive := nofun
    flagsAtExchange := fun _ => by rw [show currentPrim (Machine.afterStart out s) = _ from hp]; rfl }

/-- The leading edge (R127). -/
theorem Inv.afterLeading {s : State} (h : Inv s) (hb : s.busy = true) : Inv (spend (afterLeading s)) :=
  { h with
    sckIdle := fun hf => absurd (hb.symm.trans hf) nofun
    driven := fun hen => ⟨(h.driven hen).1, nofun⟩
    undriven := fun hen => absurd ((h.busyEnabled hb).symm.trans hen) nofun }

/-- A trailing edge (R128), of the last bit or of one before it. -/
theorem Inv.afterTrailing {s : State} (h : Inv s) (hb : s.busy = true) : Inv (spend (afterTrailing s)) := by
  have hen := h.busyEnabled hb
  have hx := h.flagsAtExchange (.inl hb)
  have hlt := h.bitcntFlying hb
  by_cases h8 : s.bitcnt + 1 = 8
  · rw [afterTrailing_last h8]
    exact { h with
      busyEnabled := nofun
      bitcntRange := by simp [spend]
      bitcntFlying := nofun
      sckIdle := fun _ _ => rfl
      bitcntResting := fun _ => .inr rfl
      flagsExclusive := nofun
      driven := fun _ => ⟨(h.driven hen).1, nofun⟩
      undriven := fun hf => absurd (hen.symm.trans hf) nofun
      flagsAtExchange := fun _ => hx }
  · have hsucc : (s.bitcnt + 1).toNat < 8 := by bv_omega
    rw [afterTrailing_mid h8]
    exact { h with
      bitcntRange := hsucc.le
      bitcntFlying := fun _ => hsucc
      sckIdle := fun _ _ => rfl
      bitcntResting := fun hf => absurd (hb.symm.trans hf) nofun
      driven := fun _ => ⟨(h.driven hen).1, nofun⟩
      undriven := fun hf => absurd (hen.symm.trans hf) nofun }

/-- Every small step keeps the invariants. -/
theorem Inv.smallStep {s t : State} (h : Inv s) (hs : smallStep s = some t) : Inv t := by
  obtain ⟨hp, rfl⟩ | ⟨hp, rfl⟩ | ⟨out, result, hp, hx⟩ | ⟨hp, rfl⟩ := smallStep_cases hs
  · exact h.next_selectLow hp
  · exact h.next_selectHigh hp
  · obtain ⟨ht, _, rfl⟩ | ⟨ht, _, rfl⟩ | ⟨_, _, hb, _, _, rfl⟩ | ⟨_, _, hb, _, rfl⟩ | ⟨_, _, hen, _, rfl⟩ := hx
    · exact h.respond_xchg ht _
    · exact h.next_takeByte hp ht
    · exact h.afterLeading hb
    · exact h.afterTrailing hb
    · exact h.afterStart hp hen
  · have hrest := h.atRest (by rw [hp]; rfl)
    exact AtRest.inv_respond (s := noteMode s) { hrest with } _

theorem kept_inv : Kept Inv where
  small := fun _ _ h _ hs => h.smallStep hs
  moment := fun _ h => { h with }
  reset := fun _ _ => inv_hardReset _

/-- A command that goes through the sequencer, accepted (30_encoding.md R91): it stands before its first primitive. -/
theorem Inv.accepted {s : State} (h : Inv s) (hf : s.fop = .idle) (hen : s.en = true) {f : Fop} (a b c : Byte)
    (hseq : isSequenced f = true) : Inv (Machine.noteBreach (Machine.accept f a b c s)) := by
  have hrest := h.atRest_idle hf
  have first : isFrame f = true → currentPrim (Machine.accept f a b c s) = some .csLow := by
    intro hfr
    cases f <;> cases hfr <;> rfl
  rw [noteBreach_eq]
  exact { h with
    inProgressEnabled := fun _ => hen
    flagsAtExchange := by simp [hrest.notBusy, hrest.taken]
    fidxRange := Nat.zero_le _
    fidxIdle := fun _ => rfl
    frameSelected := fun hfr hx => by
      have hx : isXchg (currentPrim (Machine.accept f a b c s)) = true ∨
          currentPrim (Machine.accept f a b c s) = some .csHigh := hx
      simp [first hfr, isXchg] at hx
    readCompleted := fun hr => if_pos hr }

/-- Every command keeps the invariants. -/
theorem Inv.exec {s t : State} (h : Inv s) {i : Instr} (hf : s.fop = .idle) (he : exec i s = .next t) : Inv t := by
  have hrest := h.atRest_idle hf
  have hacc := hrest.accept (fopOf i) i.a i.b i.c
  obtain ⟨u, hu, hc⟩ := exec_cases i hf
  obtain rfl : u = t := Host.Outcome.next.inj (hu.symm.trans he)
  obtain ⟨_, _, rfl⟩ | ⟨_, rfl⟩ | ⟨_, _, rfl⟩ | ⟨_, _, rfl⟩ | ⟨hseq, hen, e⟩ | ⟨_, d, rfl⟩ := hc
  · exact hacc.inv_refuse
  · exact hacc.noteBreach.initSpi.inv_respond 0
  · exact hacc.noteBreach.selectLow.inv_respond 0
  · exact hacc.noteBreach.selectHigh.inv_respond 0
  · have hstart := h.accepted hf hen i.a i.b i.c hseq
    exact e ▸ resume_keeps kept_inv hstart
  · exact hacc.inv_respond d

/-- The host's check changes its result and the diagnostics alone. -/
theorem checkLoopback_eq (s : State) : checkLoopback s =
    { s with ok := (checkLoopback s).ok, diag := (checkLoopback s).diag } := by
  unfold checkLoopback
  split
  · rfl
  · simp only []
    split
    · rfl
    · unfold diagnose
      split <;> rfl

/-- What every step of the machine keeps: the passing of a moment and what the platform and the host set, a reset, the host's
check, a refused word, every small step, and every command from acceptance to where it rests. -/
structure StepKept (P : State → Prop) : Prop where
  outside : ∀ s inputs sched resetIn, P s → P { s with inputs := inputs, sched := sched, resetIn := resetIn }
  reset : ∀ s, P s → P (hardReset s)
  check : ∀ s, P s → P (checkLoopback s)
  illegal : ∀ s w, s.fop = .idle → P s → P (illegalWord w s)
  small : ∀ s t, P s → smallStep s = some t → P t
  command : ∀ s t i, s.fop = .idle → P s → exec i s = .next t → P t

theorem StepKept.kept {P : State → Prop} (hk : StepKept P) : Kept P where
  small := fun s t h _ hs => hk.small s t h hs
  moment := fun s h => hk.outside s s.inputs s.sched _ h
  reset := fun s h => hk.reset _ (hk.outside s s.inputs s.sched none h)

theorem StepKept.step {P : State → Prop} (hk : StepKept P) {s t : State} (h : P s) (hs : step s = .next t) : P t := by
  have input : ∀ rest, P { s with inputs := rest } := fun rest => hk.outside s rest s.sched s.resetIn h
  obtain e | ⟨rest, _, e⟩ | ⟨n, rest, _, e⟩ | ⟨n, rest, _, e⟩ | ⟨rest, _, _, e⟩ | ⟨w, rest, _, hf, e⟩ |
    ⟨w, rest, i, _, hf, _, he⟩ := step_cases hs
  · exact e ▸ resume_keeps hk.kept h
  · exact e ▸ hk.reset _ (input rest)
  · exact e ▸ resume_keeps hk.kept (hk.outside s rest n s.resetIn h)
  · exact e ▸ resume_keeps hk.kept (hk.outside s rest s.sched (some n) h)
  · exact e ▸ hk.check _ (input rest)
  · exact e ▸ hk.illegal _ w hf (input rest)
  · exact hk.command { s with inputs := rest } t i hf (input rest) he

theorem stepKept_inv : StepKept Inv where
  outside := fun _ _ _ _ h => { h with }
  reset := fun s _ => inv_hardReset s
  check := fun s h => by
    rw [checkLoopback_eq]
    exact { h with }
  illegal := fun s w hf h =>
    have hrest := h.atRest_idle hf
    AtRest.inv_refuse (s := { s with opa := fieldA w, opb := fieldB w, opc := fieldC w }) { hrest with }
  small := fun _ _ h hs => h.smallStep hs
  command := fun _ _ _ hf h he => h.exec hf he

/-- Settles O42: the invariants are kept by all a step is made of (`stepKept_inv`). -/
theorem stepKeepsInvariants : Obligations.StepKeepsInvariants := by
  unfold Obligations.StepKeepsInvariants
  exact fun _ _ h hs => stepKept_inv.step h hs

end Sys2Proof.Machine
end

section
/-! The wires (40_transport.md R130, R133): each operation that appends an event takes the observer's view of the lines one
step on, and every other leaves it; so the trace stays a legal waveform. -/

namespace Sys2Proof.Machine

/-- The levels the block drives and the bits of the byte in flight, as an observer of the wires names them. -/
def wireOf (s : State) : Wire where
  asserted := decide (s.csN = some false)
  sckLow := decide (s.sck = some false)
  bits := if s.busy = true then s.bitcnt.toNat else 0

/-- An observer reads a trace that goes on from where it stood. -/
theorem wireRun_append (w : Wire) (es fs : List Event) :
    wireRun w (es ++ fs) = (wireRun w es).bind (fun w' => wireRun w' fs) := by
  induction es generalizing w with
  | nil => rfl
  | cons e es ih =>
    simp only [List.cons_append, wireRun]
    cases wireStep w e with
    | none => rfl
    | some w' => exact ih w'

/-- No event, and the lines as before. -/
theorem WireOk.same {s t : State} (h : WireOk s) (htr : t.trace = s.trace) (hw : wireOf t = wireOf s) : WireOk t := by
  unfold WireOk at h ⊢
  rw [htr, h]
  exact congrArg some hw.symm

/-- One event, legal at the levels of the lines, that leads to the new levels. -/
theorem WireOk.event {s t : State} {e : Event} (h : WireOk s) (htr : t.trace = s.trace ++ [e])
    (hw : wireStep (wireOf s) e = some (wireOf t)) : WireOk t := by
  unfold WireOk at h ⊢
  rw [htr, wireRun_append, h]
  show wireRun (wireOf s) [e] = some (wireOf t)
  simp only [wireRun, hw]

/-- Between transfers SCK is not low, and no bit of a byte is clocked. -/
theorem AtRest.wireOf {s : State} (h : AtRest s) : wireOf s = ⟨decide (s.csN = some false), false, 0⟩ := by
  have hk : s.sck ≠ some false := by
    cases hen : s.en with
    | true => simp [h.sckIdle hen]
    | false => simp [h.undriven hen]
  simp [Machine.wireOf, hk, h.notBusy]

theorem WireOk.selectLow {s : State} (h : WireOk s) (hr : AtRest s) : WireOk (selectLow s) := by
  by_cases hc : s.csN = some true
  · refine h.event (e := .csFall) (by rw [selectLow_frame]; exact if_pos hc) ?_
    rw [hr.selectLow.wireOf, hr.wireOf, selectLow_csN (by simp [hc]), hc]
    rfl
  · rwa [selectLow_of_not_high hc]

theorem WireOk.selectHigh {s : State} (h : WireOk s) (hr : AtRest s) : WireOk (selectHigh s) := by
  by_cases hc : s.csN = some false
  · refine h.event (e := .csRise) (by rw [selectHigh_frame]; exact if_pos hc) ?_
    rw [hr.selectHigh.wireOf, hr.wireOf, selectHigh_frame]
    simp [hc, wireStep]
  · rwa [show Machine.selectHigh s = s from if_neg hc]

/-- What SPI_INIT writes (40_transport.md R121): the control fields and the lines, with an event when a frame was open. -/
theorem initSpi_frame (s : State) : initSpi s =
    { s with
      en := true
      mstr := true
      dord := false
      cpol := true
      cpha := true
      ckdiv := s.cfg.SCK_DIV
      bitcnt := 0
      sck := some true
      csN := some true
      trace := if s.csN = some false then s.trace ++ [.csRise] else s.trace } := by
  unfold initSpi
  simp only []
  split <;> rfl

theorem WireOk.initSpi {s : State} (h : WireOk s) (hr : AtRest s) : WireOk (initSpi s) := by
  have htr : (Machine.initSpi s).trace = if s.csN = some false then s.trace ++ [.csRise] else s.trace := by
    rw [initSpi_frame]
  have hcs : (Machine.initSpi s).csN = some true := rfl
  by_cases hc : s.csN = some false
  · refine h.event (e := .csRise) (by rw [htr, if_pos hc]) ?_
    rw [hr.initSpi.wireOf, hr.wireOf, hcs]
    simp [hc, wireStep]
  · refine h.same (by rw [htr, if_neg hc]) ?_
    rw [hr.initSpi.wireOf, hr.wireOf, hcs]
    simp [hc]

/-- A reset releases the lines, with an event if they were driven (70_reset_and_hazards.md R250). -/
theorem WireOk.hardReset {s : State} (h : WireOk s) (hi : Inv s) : WireOk (hardReset s) := by
  by_cases hen : s.en = true
  · exact h.event (e := .released) (if_pos hen) rfl
  · refine h.same (if_neg hen) ?_
    have hen : s.en = false := by simpa using hen
    have hb : s.busy = false := by simpa [hen] using fun hb => hi.busyEnabled hb
    obtain ⟨hc, hk, _⟩ := hi.undriven hen
    simp only [wireOf, hc, hk, hb]
    rfl

/-- The start step moves no line: no bit of the new byte is clocked. -/
theorem WireOk.afterStart {s : State} (h : WireOk s) (out : Option Byte) (hb : s.busy = false) :
    WireOk (afterStart out s) := by
  refine h.same rfl ?_
  simp only [wireOf, hb]
  rfl

theorem WireOk.afterLeading {s : State} (h : WireOk s) (hk : s.sck = some true) :
    WireOk (spend (afterLeading s)) := by
  refine h.event (e := .sckFall (s.sr.getLsbD 7)) rfl ?_
  simp [wireOf, hk, wireStep, Machine.afterLeading]

/-- The trailing edge counts a bit; the eighth ends the byte. -/
theorem WireOk.afterTrailing {s : State} (h : WireOk s) (hi : Inv s) (hb : s.busy = true)
    (hk : s.sck = some false) : WireOk (spend (afterTrailing s)) := by
  have hlt := hi.bitcntFlying hb
  refine h.event (e := .sckRise (misoLevel s)) ?_ ?_ <;> by_cases h8 : s.bitcnt + 1 = 8
  · rw [afterTrailing_last h8]
    rfl
  · rw [afterTrailing_mid h8]
    rfl
  · have h7 : s.bitcnt.toNat = 7 := by bv_omega
    rw [afterTrailing_last h8]
    simp only [wireStep, wireOf, hk, hb, if_true, h7]
    rfl
  · have hsucc : (s.bitcnt + 1).toNat = s.bitcnt.toNat + 1 := by bv_omega
    have hmod : (s.bitcnt.toNat + 1) % 8 = s.bitcnt.toNat + 1 := Nat.mod_eq_of_lt (by bv_omega)
    rw [afterTrailing_mid h8]
    simp only [wireStep, wireOf, hk, hb, spend, if_true, hsucc, hmod]
    rfl

/-- Every small step keeps the waveform. -/
theorem WireOk.smallStep {s t : State} (h : WireOk s) (hi : Inv s) (hs : smallStep s = some t) : WireOk t := by
  obtain ⟨hp, rfl⟩ | ⟨hp, rfl⟩ | ⟨out, result, hp, hx⟩ | ⟨_, rfl⟩ := smallStep_cases hs
  · exact (h.selectLow (hi.atRest (by rw [hp]; rfl))).same rfl rfl
  · exact (h.selectHigh (hi.atRest (by rw [hp]; rfl))).same rfl rfl
  · obtain ⟨_, _, rfl⟩ | ⟨_, _, rfl⟩ | ⟨_, _, _, hk, _, rfl⟩ | ⟨_, _, hb, hk, rfl⟩ | ⟨_, hb, _, _, rfl⟩ := hx
    · exact h.same rfl rfl
    · cases result <;> exact h.same rfl rfl
    · exact h.afterLeading hk
    · exact h.afterTrailing hi hb hk
    · exact h.afterStart out hb
  · exact h.same rfl rfl

theorem kept_waveform : Kept (fun s => Inv s ∧ WireOk s) where
  small := fun _ _ h _ hs => ⟨h.1.smallStep hs, h.2.smallStep h.1 hs⟩
  moment := fun s h => ⟨kept_inv.moment s h.1, h.2.same rfl rfl⟩
  reset := fun s h => ⟨kept_inv.reset s h.1, WireOk.hardReset (s := { s with resetIn := none }) h.2 { h.1 with }⟩

/-- Every command keeps the waveform. -/
theorem WireOk.exec {s t : State} (h : WireOk s) (hi : Inv s) {i : Instr} (hf : s.fop = .idle)
    (he : exec i s = .next t) : WireOk t := by
  have hacc : WireOk (accept (fopOf i) i.a i.b i.c s) := h.same rfl rfl
  have hnote : WireOk (noteBreach (accept (fopOf i) i.a i.b i.c s)) := by
    rw [noteBreach_eq]
    exact h.same rfl rfl
  have hrest := ((hi.atRest_idle hf).accept (fopOf i) i.a i.b i.c).noteBreach
  obtain ⟨u, hu, hc⟩ := exec_cases i hf
  obtain rfl : u = t := Host.Outcome.next.inj (hu.symm.trans he)
  obtain ⟨_, _, rfl⟩ | ⟨_, rfl⟩ | ⟨_, _, rfl⟩ | ⟨_, _, rfl⟩ | ⟨hseq, hen, e⟩ | ⟨_, d, rfl⟩ := hc
  · exact hacc.same rfl rfl
  · exact (hnote.initSpi hrest).same rfl rfl
  · exact (hnote.selectLow hrest).same rfl rfl
  · exact (hnote.selectHigh hrest).same rfl rfl
  · exact e ▸ (resume_keeps kept_waveform ⟨hi.accepted hf hen i.a i.b i.c hseq, hnote⟩).2
  · exact hacc.same rfl rfl

theorem stepKept_waveform : StepKept (fun s => Inv s ∧ WireOk s) where
  outside := fun s i n r h => ⟨stepKept_inv.outside s i n r h.1, h.2.same rfl rfl⟩
  reset := fun s h => ⟨stepKept_inv.reset s h.1, h.2.hardReset h.1⟩
  check := fun s h => ⟨stepKept_inv.check s h.1, by
    rw [checkLoopback_eq]
    exact h.2.same rfl rfl⟩
  illegal := fun s w hf h => ⟨stepKept_inv.illegal s w hf h.1, h.2.same rfl rfl⟩
  small := fun s t h hs => ⟨h.1.smallStep hs, h.2.smallStep h.1 hs⟩
  command := fun s t i hf h he => ⟨h.1.exec hf he, h.2.exec h.1 hf he⟩

/-- Settles O43: the waveform, together with the invariants that say where the lines stand, is kept by all a step is made
of (`stepKept_waveform`). -/
theorem stepKeepsWaveform : Obligations.StepKeepsWaveform := by
  unfold Obligations.StepKeepsWaveform
  exact fun _ _ hi hw hs => (stepKept_waveform.step ⟨hi, hw⟩ hs).2

/-- Settles O41: at power-on the block is at rest, nothing is driven, and the trace is empty. -/
theorem powerOnInvariants : Obligations.PowerOnInvariants := by
  unfold Obligations.PowerOnInvariants
  refine ⟨?_, rfl, by decide⟩
  exact inv_hardReset State.reset

end Sys2Proof.Machine
end

section
/-! What no small step touches (70_reset_and_hazards.md R254, 10_state.md R40, R41): the configuration, the slave's kind, the
inputs and the host's records; the trace only grows, and the slave's registers keep their canonical form. -/

namespace Sys2Proof.Machine

/-- What a run of small steps, also one that a reset ends, leaves as it is outside the command in progress. -/
structure Undisturbed (s t : State) : Prop where
  cfg : t.cfg = s.cfg
  slave : t.slave = s.slave
  inputs : t.inputs = s.inputs
  diag : t.diag = s.diag
  ok : t.ok = s.ok
  breaches : t.breaches = s.breaches
  trace : s.trace <+: t.trace
  registers : s.ref.sreg.wf = true → t.ref.sreg.wf = true
  command : t.fop = s.fop ∨ t.fop = .idle

theorem Undisturbed.refl (s : State) : Undisturbed s s :=
  ⟨rfl, rfl, rfl, rfl, rfl, rfl, List.prefix_rfl, id, .inl rfl⟩

theorem Undisturbed.trans {s t u : State} (h : Undisturbed s t) (k : Undisturbed t u) : Undisturbed s u where
  cfg := k.cfg.trans h.cfg
  slave := k.slave.trans h.slave
  inputs := k.inputs.trans h.inputs
  diag := k.diag.trans h.diag
  ok := k.ok.trans h.ok
  breaches := k.breaches.trans h.breaches
  trace := h.trace.trans k.trace
  registers := fun hw => k.registers (h.registers hw)
  command := by
    obtain e | e := k.command
    · exact e ▸ h.command
    · exact .inr e

/-- The reset command of the reference slave writes two registers (20_memory.md R82). -/
theorem refResetMode_wf {g : Cfg} {r : RefSlave} (h : r.sreg.wf = true) : (refResetMode g r).sreg.wf = true :=
  write_wf _ _ (write_wf _ _ h)

theorem refStore_wf {g : Cfg} {stuck : Bool} {r : RefSlave} (v : Byte) (h : r.sreg.wf = true) :
    (refStore g stuck r v).sreg.wf = true := by
  have hw := write_wf r.addr v h
  unfold refStore refModeHook
  simp only []
  split
  · exact hw
  · split
    · exact write_wf _ _ hw
    · exact hw

theorem refCommand_wf {g : Cfg} {r : RefSlave} (o : Byte) (h : r.sreg.wf = true) :
    (refCommand g r o).sreg.wf = true := by
  have hw : (if o = g.CMD_RESET then refResetMode g { r with cmd := some o } else { r with cmd := some o }).sreg.wf =
      true := by
    split
    · exact refResetMode_wf h
    · exact h
  unfold refCommand
  simp only []
  split <;> exact hw

/-- Whatever byte the reference slave receives, its registers keep their canonical form. -/
theorem refReceive_wf {g : Cfg} {stuck : Bool} {r : RefSlave} (o : Byte) (h : r.sreg.wf = true) :
    (refReceive g stuck r o).sreg.wf = true := by
  show (refActs g stuck r o).sreg.wf = true
  unfold refActs
  split
  · exact refCommand_wf o h
  · split <;> exact h
  · split
    · exact refStore_wf o h
    · split <;> exact h
  · split
    · exact refStore_wf _ h
    · exact h
  · exact h

theorem refClock_wf {g : Cfg} {stuck : Bool} {r : RefSlave} (mosi last : Bool) (h : r.sreg.wf = true) :
    (refClock g stuck r mosi last).sreg.wf = true := by
  unfold refClock
  simp only []
  split
  · exact refReceive_wf _ h
  · exact h

theorem slaveClock_wf {s : State} (h : s.ref.sreg.wf = true) : (slaveClock s).ref.sreg.wf = true := by
  unfold slaveClock
  split
  · split
    · split <;> exact h
    · exact refClock_wf _ _ h
    · exact refClock_wf _ _ h
  · exact h

/-- A list that at most gains an end. -/
theorem prefix_ite_append {α : Type} (p : Prop) [Decidable p] (l es : List α) : l <+: if p then l ++ es else l := by
  split
  · exact List.prefix_append _ _
  · exact List.prefix_rfl

theorem undisturbed_selectLow (s : State) : Undisturbed s (nextPrim (selectLow s)) := by
  have hreg := selectLow_sreg s
  rw [selectLow_frame] at hreg ⊢
  exact ⟨rfl, rfl, rfl, rfl, rfl, rfl, prefix_ite_append _ _ _, fun h => hreg.symm ▸ h, .inl rfl⟩

theorem undisturbed_selectHigh (s : State) : Undisturbed s (nextPrim (selectHigh s)) := by
  rw [selectHigh_frame]
  exact ⟨rfl, rfl, rfl, rfl, rfl, rfl, prefix_ite_append _ _ _, id, .inl rfl⟩

theorem undisturbed_afterTrailing (s : State) : Undisturbed s (spend (afterTrailing s)) := by
  have hreg := slaveClock_wf (s := s)
  by_cases h8 : s.bitcnt + 1 = 8
  · rw [afterTrailing_last h8]
    exact ⟨rfl, rfl, rfl, rfl, rfl, rfl, List.prefix_append _ _, hreg, .inl rfl⟩
  · rw [afterTrailing_mid h8]
    exact ⟨rfl, rfl, rfl, rfl, rfl, rfl, List.prefix_append _ _, hreg, .inl rfl⟩

theorem undisturbed_hardReset (s : State) (r : Option Nat) : Undisturbed s (hardReset { s with resetIn := r }) :=
  ⟨rfl, rfl, rfl, rfl, rfl, rfl, prefix_ite_append _ _ _, id, .inr rfl⟩

theorem undisturbed_smallStep {s t : State} (hs : smallStep s = some t) : Undisturbed s t := by
  have same : Undisturbed s s := .refl s
  obtain ⟨_, rfl⟩ | ⟨_, rfl⟩ | ⟨out, result, _, hx⟩ | ⟨_, rfl⟩ := smallStep_cases hs
  · exact undisturbed_selectLow s
  · exact undisturbed_selectHigh s
  · obtain ⟨_, _, rfl⟩ | ⟨_, _, rfl⟩ | ⟨_, _, _, _, _, rfl⟩ | ⟨_, _, _, _, rfl⟩ | ⟨_, _, _, _, rfl⟩ := hx
    · exact { same with command := .inr rfl }
    · cases result <;> exact { same with }
    · exact { same with trace := List.prefix_append _ _ }
    · exact undisturbed_afterTrailing s
    · exact { same with }
  · exact { same with command := .inr rfl }

theorem kept_undisturbed (s : State) : Kept (Undisturbed s) where
  small := fun _ _ h _ hs => h.trans (undisturbed_smallStep hs)
  moment := fun _ h => { h with }
  reset := fun u h => h.trans (undisturbed_hardReset u none)

theorem undisturbed_resume (s : State) : Undisturbed s (resume s) :=
  resume_keeps (kept_undisturbed s) (.refl s)

/-- What any step of the machine keeps of the platform's and the observer's side. -/
structure Grows (s t : State) : Prop where
  cfg : t.cfg = s.cfg
  slave : t.slave = s.slave
  trace : s.trace <+: t.trace
  diag : s.diag <+: t.diag
  registers : s.ref.sreg.wf = true → t.ref.sreg.wf = true

theorem Grows.refl (s : State) : Grows s s := ⟨rfl, rfl, List.prefix_rfl, List.prefix_rfl, id⟩

theorem Grows.trans {s t u : State} (h : Grows s t) (k : Grows t u) : Grows s u :=
  ⟨k.cfg.trans h.cfg, k.slave.trans h.slave, h.trace.trans k.trace, h.diag.trans k.diag,
    fun hw => k.registers (h.registers hw)⟩

theorem Undisturbed.grows {s t : State} (h : Undisturbed s t) : Grows s t :=
  { h with diag := h.diag ▸ List.prefix_rfl }

/-- The host's check appends at most one diagnostic. -/
theorem grows_checkLoopback (s : State) : Grows s (checkLoopback s) := by
  have hdiag : s.diag <+: (checkLoopback s).diag := by
    unfold checkLoopback
    split
    · exact List.prefix_rfl
    · simp only []
      split
      · exact List.prefix_rfl
      · unfold diagnose
        split
        · exact List.prefix_append _ _
        · exact List.prefix_rfl
  rw [checkLoopback_eq]
  exact { Grows.refl s with diag := hdiag }

theorem grows_accept (f : Fop) (a b c : Byte) (s : State) : Grows s (noteBreach (accept f a b c s)) := by
  rw [noteBreach_eq]
  exact { Grows.refl s with }

theorem grows_initSpi (s : State) : Grows s (initSpi s) := by
  rw [initSpi_frame]
  exact { Grows.refl s with trace := prefix_ite_append _ _ _ }

theorem grows_exec {s t : State} {i : Instr} (hf : s.fop = .idle) (he : exec i s = .next t) : Grows s t := by
  have hacc := grows_accept (fopOf i) i.a i.b i.c s
  obtain ⟨u, hu, hc⟩ := exec_cases i hf
  obtain rfl : u = t := Host.Outcome.next.inj (hu.symm.trans he)
  obtain ⟨_, _, rfl⟩ | ⟨_, rfl⟩ | ⟨_, _, rfl⟩ | ⟨_, _, rfl⟩ | ⟨_, _, e⟩ | ⟨_, d, rfl⟩ := hc
  · exact { Grows.refl s with }
  · exact { hacc.trans (grows_initSpi _) with }
  · exact { hacc.trans (undisturbed_selectLow _).grows with }
  · exact { hacc.trans (undisturbed_selectHigh _).grows with }
  · exact e ▸ hacc.trans (undisturbed_resume _).grows
  · exact { Grows.refl s with }

theorem stepKept_grows (s : State) : StepKept (Grows s) where
  outside := fun _ _ _ _ h => { h with }
  reset := fun u h => h.trans (undisturbed_hardReset u u.resetIn).grows
  check := fun u h => h.trans (grows_checkLoopback u)
  illegal := fun _ _ _ h => { h with }
  small := fun _ _ h hs => h.trans (undisturbed_smallStep hs).grows
  command := fun _ _ _ hf h he => h.trans (grows_exec hf he)

theorem grows_step {s t : State} (hs : step s = .next t) : Grows s t := (stepKept_grows s).step (.refl s) hs

/-- Settles O44: no step writes the configuration or the slave's kind (`grows_step`). -/
theorem stepKeepsConfig : Obligations.StepKeepsConfig := by
  unfold Obligations.StepKeepsConfig
  exact fun _ _ hs => ⟨(grows_step hs).cfg, (grows_step hs).slave⟩

/-- Settles O45: the two records before the step are prefixes of those after it (`grows_step`). -/
theorem recordsOnlyGrow : Obligations.RecordsOnlyGrow := by
  unfold Obligations.RecordsOnlyGrow
  intro s t hs
  obtain ⟨es, hes⟩ := (grows_step hs).trace
  obtain ⟨ds, hds⟩ := (grows_step hs).diag
  exact ⟨⟨es, hes.symm⟩, ⟨ds, hds.symm⟩⟩

/-- Settles O46: whatever byte the slave receives keeps the form (`refReceive_wf`), and nothing else writes registers. -/
theorem stepKeepsMemoryForm : Obligations.StepKeepsMemoryForm := by
  unfold Obligations.StepKeepsMemoryForm
  exact fun _ _ hw hs => (grows_step hs).registers hw

/-- Settles O47: every case of the step, and every command, answers a next state. -/
theorem stepAlwaysAnswers : Obligations.StepAlwaysAnswers := by
  unfold Obligations.StepAlwaysAnswers
  intro s
  unfold step
  split
  · exact ⟨_, rfl⟩
  · exact ⟨_, rfl⟩
  · exact ⟨_, rfl⟩
  · exact ⟨_, rfl⟩
  · split <;> exact ⟨_, rfl⟩
  · split
    · split
      · exact ⟨_, exec_eq_issue _ _⟩
      · exact ⟨_, rfl⟩
    · exact ⟨_, rfl⟩

end Sys2Proof.Machine
end

section
/-! The command port and the platform's reset (30_encoding.md R91, R96 to R98, 70_reset_and_hazards.md R250): what the step
does with each input, and what each kind of command leaves. -/

namespace Sys2Proof.Machine

/-- While the port is closed a word and the host's check wait, and the command in progress goes on (R91). -/
theorem step_waits {s : State} (hf : s.fop ≠ .idle)
    (hi : s.inputs = [] ∨ (∃ w rest, s.inputs = .word w :: rest) ∨ ∃ rest, s.inputs = .checkLoopback :: rest) :
    step s = .next (resume s) := by
  unfold step
  obtain hi | ⟨w, rest, hi⟩ | ⟨rest, hi⟩ := hi <;> rw [hi]
  · exact if_neg hf
  · exact if_neg hf

/-- A word that is no command is latched and refused (R96, R98). -/
theorem step_illegal {s : State} {w : CmdWord} {rest : List Input} {r : Reject} (hi : s.inputs = .word w :: rest)
    (hf : s.fop = .idle) (hd : decode w = .error r) : step s = .next (illegalWord w { s with inputs := rest }) := by
  unfold step
  rw [hi]
  refine (if_pos hf).trans ?_
  rw [hd]

/-- Settles O5: the step's own case of a word at an open port. -/
theorem stepRunsDecoded : Obligations.StepRunsDecoded := by
  unfold Obligations.StepRunsDecoded
  intro s w rest i hi hf hd
  unfold step
  rw [hi]
  refine (if_pos hf).trans ?_
  rw [hd]

/-- The opcode map has no row exactly for the values R98 lists. -/
theorem decodeFields_error_iff (op a b c : Byte) : (∃ op', decodeFields op a b c = .error (.illegalOp op')) ↔
    (0x04 ≤ op.toNat ∧ op.toNat ≤ 0x0F) ∨ (0x17 ≤ op.toNat ∧ op.toNat ≤ 0x1F) ∨ 0x26 ≤ op.toNat := by
  unfold decodeFields
  split
  case h_18 =>
    simp only [imp_false] at *
    exact ⟨fun _ => by omega, fun _ => ⟨op, rfl⟩⟩
  all_goals exact ⟨nofun, fun _ => by omega⟩

/-- Settles O4: the opcode map's gaps (`decodeFields_error_iff`), and the step's case of such a word (`step_illegal`). -/
theorem illegalWordsRefused : Obligations.IllegalWordsRefused := by
  unfold Obligations.IllegalWordsRefused
  intro w
  exact ⟨decodeFields_error_iff _ _ _ _, fun op s rest hd hf hi => step_illegal hi hf hd⟩

/-- What one moment does: nothing between commands; else the reset that is due; else, one moment nearer to the reset to come,
the small step of the command, or none. -/
theorem tick_cases (s : State) :
    (s.fop = .idle ∧ tick s = s) ∨
    (s.fop ≠ .idle ∧ s.resetIn = some 0 ∧ tick s = hardReset { s with resetIn := none }) ∨
    (s.fop ≠ .idle ∧ s.resetIn ≠ some 0 ∧
      ((smallStep (countDown s) = none ∧ tick s = countDown s) ∨ smallStep (countDown s) = some (tick s))) := by
  by_cases hf : s.fop = .idle
  · exact .inl ⟨hf, tick_idle hf⟩
  · by_cases hr : s.resetIn = some 0
    · exact .inr (.inl ⟨hf, hr, by rw [tick, if_neg hf, if_pos hr]⟩)
    · have ht : tick s = advance (countDown s) := by rw [tick, if_neg hf, if_neg hr]
      refine .inr (.inr ⟨hf, hr, ?_⟩)
      rw [ht]
      unfold advance
      cases hs : smallStep (countDown s) with
      | none => exact .inl ⟨rfl, rfl⟩
      | some t => exact .inr rfl

/-- What every moment keeps, every run keeps. -/
theorem runFor_of_tick {P : State → Prop} (hp : ∀ s, P s → P (tick s)) {s : State} (h : P s) (n : Nat) :
    P (runFor n s) := by
  induction n generalizing s with
  | zero => exact h
  | succ n ih => exact ih (hp s h)

theorem resume_of_tick {P : State → Prop} (hp : ∀ s, P s → P (tick s)) {s : State} (h : P s) : P (resume s) :=
  runFor_of_tick hp h _

/-- What a command in progress keeps of its acceptance, and of the reset to come. -/
structure Latched (s t : State) : Prop where
  opa : t.opa = s.opa
  opb : t.opb = s.opb
  opc : t.opc = s.opc
  resetIn : t.resetIn = s.resetIn
  en : t.en = s.en

theorem latched_smallStep {s t : State} (hs : smallStep s = some t) : Latched s t := by
  obtain ⟨_, rfl⟩ | ⟨_, rfl⟩ | ⟨out, result, _, hx⟩ | ⟨_, rfl⟩ := smallStep_cases hs
  · rw [selectLow_frame]
    exact ⟨rfl, rfl, rfl, rfl, rfl⟩
  · rw [selectHigh_frame]
    exact ⟨rfl, rfl, rfl, rfl, rfl⟩
  · obtain ⟨_, _, rfl⟩ | ⟨_, _, rfl⟩ | ⟨_, _, _, _, _, rfl⟩ | ⟨_, _, _, _, rfl⟩ | ⟨_, _, _, _, rfl⟩ := hx
    · exact ⟨rfl, rfl, rfl, rfl, rfl⟩
    · cases result <;> exact ⟨rfl, rfl, rfl, rfl, rfl⟩
    · exact ⟨rfl, rfl, rfl, rfl, rfl⟩
    · unfold afterTrailing
      rw [slaveClock_eq]
      simp only []
      split <;> exact ⟨rfl, rfl, rfl, rfl, rfl⟩
    · exact ⟨rfl, rfl, rfl, rfl, rfl⟩
  · exact ⟨rfl, rfl, rfl, rfl, rfl⟩

/-- With no reset to come a moment is a small step or nothing. -/
theorem tick_calm {s : State} (hr : s.resetIn = none) : tick s = s ∨ smallStep s = some (tick s) := by
  obtain ⟨_, h⟩ | ⟨_, hr', _⟩ | ⟨_, _, h⟩ := tick_cases s
  · exact .inl h
  · cases hr.symm.trans hr'
  · rw [countDown_none hr] at h
    exact h.imp And.right id

/-- With no reset to come the latches stand until the response and after it. -/
theorem latched_resume {s : State} (hr : s.resetIn = none) : Latched s (resume s) := by
  refine resume_of_tick (P := Latched s) (fun u hu => ?_) ⟨rfl, rfl, rfl, rfl, rfl⟩
  obtain e | hs := tick_calm (hu.resetIn.trans hr)
  · exact e.symm ▸ hu
  · have ht := latched_smallStep hs
    exact ⟨ht.opa.trans hu.opa, ht.opb.trans hu.opb, ht.opc.trans hu.opc, ht.resetIn.trans hu.resetIn,
      ht.en.trans hu.en⟩

/-- Settles O6: a closed port accepts no command (`exec_closed`); a word waits (`step_waits`) while the run leaves the inputs
(`undisturbed_resume`) and, without a reset, the latches (`latched_resume`). -/
theorem closedPortAcceptsNothing : Obligations.ClosedPortAcceptsNothing := by
  unfold Obligations.ClosedPortAcceptsNothing
  intro s w rest hi hf
  have hrun := undisturbed_resume s
  refine ⟨fun i => exec_closed i hf, resume s, step_waits hf (.inr (.inl ⟨w, rest, hi⟩)), hrun.inputs, hrun.command,
    fun hr => ?_⟩
  have hl := latched_resume hr
  exact ⟨hl.opa, hl.opb, hl.opc⟩

/-- A reset due inside a command ends it at once (R250). -/
theorem resume_reset_due {s : State} (hf : s.fop ≠ .idle) (hr : s.resetIn = some 0) :
    resume s = hardReset { s with resetIn := none } := by
  have ht : tick s = hardReset { s with resetIn := none } := by rw [tick, if_neg hf, if_pos hr]
  unfold resume
  rw [show longest = 127 + 1 from rfl, runFor, ht]
  exact runFor_idle rfl _

/-- Settles O7: both ways a reset comes lead to `hardReset` (the second by `resume_reset_due`). -/
theorem resetActsAtOnce : Obligations.ResetActsAtOnce := by
  unfold Obligations.ResetActsAtOnce
  intro s rest h
  obtain ⟨r, hs⟩ : ∃ r, step s = .next (hardReset { s with inputs := rest, resetIn := r }) := by
    obtain hi | ⟨hi, rfl, hf, hr⟩ := h
    · refine ⟨s.resetIn, ?_⟩
      unfold step
      rw [hi]
    · refine ⟨none, ?_⟩
      rw [step_waits hf (.inl hi), resume_reset_due hf hr, ← hi]
  exact ⟨_, hs, rfl, rfl, rfl, rfl, rfl, rfl, rfl, rfl, rfl, rfl, rfl, rfl, rfl, rfl, rfl, rfl, rfl, rfl, rfl, rfl, rfl,
    rfl, rfl⟩

/-- SPI_INIT from acceptance to response, whether or not the block is enabled (40_transport.md R121). -/
theorem exec_spiInit (a b c : Byte) {s : State} (hf : s.fop = .idle) :
    exec (.spiInit a b c) s = .next (respond 0 (initSpi (noteBreach (accept .spiInit a b c s)))) := exec_open _ hf

/-- Settles O10: what SPI_INIT writes (`initSpi_frame`) on the state that accepted it, whose breach alone is open. -/
theorem spiInitEffect : Obligations.SpiInitEffect := by
  unfold Obligations.SpiInitEffect
  intro a b c s hf
  refine ⟨decode_wordOf 0x00 a b c, _, exec_spiInit a b c hf, ?_⟩
  rw [initSpi_frame, noteBreach_eq]
  cases s
  cases hf
  rfl

/-- Settles O8: the power-on state as it is written, and `spiInitEffect` from it. -/
theorem powerOnThenInit : Obligations.PowerOnThenInit := by
  unfold Obligations.PowerOnThenInit
  refine ⟨rfl, rfl, rfl, rfl, rfl, rfl, rfl, rfl, rfl, rfl, rfl, rfl, rfl, rfl, rfl, rfl, fun a b c => ?_⟩
  obtain ⟨_, t, he, ht⟩ := spiInitEffect a b c State.reset rfl
  refine ⟨t, he, ?_⟩
  rw [ht]
  exact ⟨rfl, rfl, rfl, rfl, rfl, rfl, rfl, rfl, rfl, rfl, rfl, rfl, rfl, rfl, rfl, rfl, rfl, rfl, rfl, rfl, rfl⟩

theorem okWord_noError (d : RespData) : (okWord d).getLsbD 15 = false := by
  unfold okWord
  rw [BitVec.getLsbD_append, if_neg (by omega)]
  simp

/-- Settles O9: the refusal is `exec_refused`; while `EN = 0` a command not refused is SPI_INIT or the calculator's, and
these respond with `ERR = 0`. -/
theorem notInitialisedRefused : Obligations.NotInitialisedRefused := by
  unfold Obligations.NotInitialisedRefused
  intro i s hf hen
  refine ⟨fun hi => exec_refused i hf hen hi, fun hi => ?_⟩
  have off : s.en ≠ true := by simp [hen]
  obtain ⟨t, he, hc⟩ := exec_cases i hf
  refine ⟨t, he, ?_⟩
  obtain ⟨hn, _, _⟩ | ⟨_, rfl⟩ | ⟨_, h, _⟩ | ⟨_, h, _⟩ | ⟨_, h, _⟩ | ⟨_, d, rfl⟩ := hc
  · cases hi.symm.trans hn
  · exact ⟨okWord_noError 0, rfl⟩
  · exact absurd h off
  · exact absurd h off
  · exact absurd h off
  · exact ⟨okWord_noError d, rfl⟩

/-- The breach a command records when it is accepted (70_reset_and_hazards.md R256). -/
theorem noteBreach_accept (f : Fop) (a b c : Byte) (s : State) : (noteBreach (accept f a b c s)).breaches =
    if bracketKept f s.csN = true then s.breaches else s.breaches ++ [.bracket f] := by
  unfold noteBreach
  split <;> rename_i h
  · exact (if_pos h).symm
  · exact (if_neg h).symm

/-- The calculator's commands keep the contract whatever the level of chip-select. -/
theorem bracketKept_calculator {i : Instr} (h : isCalculator i = true) (level : Option Bool) :
    bracketKept (fopOf i) level = true := by
  cases i
  case btTq | btSeglen | btPack1 | btPack2 | btPack3 | btNbt => rfl
  all_goals exact Bool.noConfusion h

/-- A command that is not refused records its breach at acceptance and nothing later. -/
theorem exec_breaches (i : Instr) {s : State} (hf : s.fop = .idle) (hen : needsEnable i = true → s.en = true) :
    ∃ t, exec i s = .next t ∧ t.breaches =
      if bracketKept (fopOf i) s.csN = true then s.breaches else s.breaches ++ [.bracket (fopOf i)] := by
  have hb := noteBreach_accept (fopOf i) i.a i.b i.c s
  obtain ⟨t, he, hc⟩ := exec_cases i hf
  refine ⟨t, he, ?_⟩
  obtain ⟨hn, h, _⟩ | ⟨_, rfl⟩ | ⟨_, _, rfl⟩ | ⟨_, _, rfl⟩ | ⟨_, _, e⟩ | ⟨hcalc, d, rfl⟩ := hc
  · cases (hen hn).symm.trans h
  · rw [← hb, initSpi_frame]
    rfl
  · rw [← hb, selectLow_frame]
    rfl
  · rw [← hb, selectHigh_frame]
    rfl
  · rw [e, (undisturbed_resume _).breaches, hb]
  · exact (if_pos (bracketKept_calculator hcalc _)).symm

/-- Settles O48: what a command records (`exec_breaches`), with the contract of each command written out. -/
theorem breachesRecorded : Obligations.BreachesRecorded := by
  unfold Obligations.BreachesRecorded
  intro i s hf hen
  obtain ⟨t, he, hb⟩ := exec_breaches i hf hen
  refine ⟨t, he, hb.trans ?_⟩
  cases i
  case spiInit => by_cases h : s.csN = some false <;> simp [fopOf, bracketKept, h]
  all_goals simp only [fopOf, bracketKept, decide_eq_true_eq, if_true]

end Sys2Proof.Machine
end

section
/-! The bit-timing calculator (42_bittiming.md): the results of its commands as numbers, and the functions of R189 and R190
that read them back. -/

namespace Sys2Proof.Machine

/-- The time quantum (R181) as a number: the largest, 512, is inside the 10 bits of R192. -/
theorem btTq_toNat (brp : Byte) : (btTq brp).toNat = 2 * (brp.toNat + 1) := by
  have hlt : brp.toNat < 256 := brp.isLt
  have hsucc : (zext10 brp + 1).toNat = brp.toNat + 1 := btSeglen_toNat brp
  calc (btTq brp).toNat = 2 * (zext10 brp + 1).toNat % 1024 := BitVec.toNat_mul 2 (zext10 brp + 1)
    _ = 2 * (brp.toNat + 1) := by rw [hsucc, Nat.mod_eq_of_lt (by omega)]

theorem btPack2_toNat (g : Cfg) (prop ps1 : Byte) :
    (btPack2 g prop ps1).toNat = (prop.toNat ||| ps1.toNat * 2 ^ g.PS1_SHIFT) % 256 := by
  rw [btPack2, BitVec.toNat_ofNat, Nat.shiftLeft_eq]

/-- The time quanta of a bit (R187) as a number in 10 bits. -/
theorem btNbt_toNat (g : Cfg) (prop ps1 ps2 : Byte) : (btNbt g prop ps1 ps2).toNat =
    (g.SYNC_TQ + (prop.toNat + 1) + (ps1.toNat + 1) + (ps2.toNat + 1)) % 1024 := by
  have seg : ∀ v : Byte, (zext10 v + 1).toNat = v.toNat + 1 := btSeglen_toNat
  simp only [btNbt, BitVec.toNat_add, BitVec.toNat_ofNat, seg]
  omega

/-- A calculator command other than through its result writes its latches and FIDX (R193). -/
theorem exec_respond {i : Instr} {d : RespData} {s : State} (hf : s.fop = .idle) (hr : fopOf i ≠ .fRead)
    (hb : bodyOf i (accept (fopOf i) i.a i.b i.c s) = respond d (accept (fopOf i) i.a i.b i.c s)) :
    exec i s = .next { s with opa := i.a, opb := i.b, opc := i.c, fidx := 0, rsp := okWord d } := by
  rw [exec_open i hf, hb, respond_accept _ _ _ _ _ hf hr]

/-- Settles O32: the command's result (`btTq_toNat`) in the state `exec_respond` names. -/
theorem btTqEffect : Obligations.BtTqEffect := by
  unfold Obligations.BtTqEffect
  intro a b c s hf
  rw [exec_respond (i := .btTq a b c) (d := btTq a) hf nofun rfl, okWord_eq_ofNat, btTq_toNat]
  rfl

/-- Settles O34: the result is the operand itself. -/
theorem btPackOneEffect : Obligations.BtPackOneEffect := by
  unfold Obligations.BtPackOneEffect
  intro a b c s hf
  rw [exec_respond (i := .btPack1 a b c) (d := zext10 a) hf nofun rfl, okWord_eq_ofNat, zext10_toNat]
  rfl

/-- Settles O35: the result is `btPack2_toNat`. -/
theorem btPackTwoEffect : Obligations.BtPackTwoEffect := by
  unfold Obligations.BtPackTwoEffect
  intro a b c s hf
  rw [exec_respond (i := .btPack2 a b c) (d := zext10 (btPack2 s.cfg a b)) hf nofun rfl, okWord_eq_ofNat, zext10_toNat,
    btPack2_toNat]
  rfl

/-- Settles O37: the result is `btNbt_toNat`. -/
theorem btNbtEffect : Obligations.BtNbtEffect := by
  unfold Obligations.BtNbtEffect
  intro a b c s hf
  rw [exec_respond (i := .btNbt a b c) (d := btNbt s.cfg a b c) hf nofun rfl, okWord_eq_ofNat, btNbt_toNat]
  rfl

/-- The result of a calculator command is a function of its operands and the configuration (R193). -/
theorem bodyOf_calculator {i : Instr} (hi : isCalculator i = true) (g : Cfg) : ∃ d : RespData, ∀ s : State, s.cfg = g →
    bodyOf i (accept (fopOf i) i.a i.b i.c s) = respond d (accept (fopOf i) i.a i.b i.c s) := by
  cases i
  case btTq a b c => exact ⟨btTq a, fun _ _ => rfl⟩
  case btSeglen a b c => exact ⟨btSeglen a, fun _ _ => rfl⟩
  case btPack1 a b c => exact ⟨zext10 (btPack1 a), fun _ _ => rfl⟩
  case btPack2 a b c => exact ⟨zext10 (btPack2 g a b), fun s hg => by subst hg; rfl⟩
  case btPack3 a b c => exact ⟨zext10 (btPack3 a), fun _ _ => rfl⟩
  case btNbt a b c => exact ⟨btNbt g a b c, fun s hg => by subst hg; rfl⟩
  all_goals exact Bool.noConfusion hi

/-- Settles O38: one result for both states (`bodyOf_calculator`), and nothing else written (`exec_respond`). -/
theorem calculatorPure : Obligations.CalculatorPure := by
  unfold Obligations.CalculatorPure
  intro i s s' hi hf hf' hg
  have hr : fopOf i ≠ .fRead := by
    intro e
    cases i <;> cases e
    exact Bool.noConfusion hi
  obtain ⟨d, hd⟩ := bodyOf_calculator hi s.cfg
  exact ⟨okWord d, exec_respond hf hr (hd s rfl), exec_respond hf' hr (hd s' hg.symm)⟩

/-- With the widths of R190 the combined register holds the two fields side by side. -/
theorem btPack2_fields {g : Cfg} {prop ps1 : Byte} (hs : g.PS1_SHIFT = 3) (hp : prop.toNat < 8) (hq : ps1.toNat < 8) :
    (btPack2 g prop ps1).toNat = ps1.toNat * 8 + prop.toNat := by
  have hor : ps1.toNat <<< 3 + prop.toNat = ps1.toNat <<< 3 ||| prop.toNat := Nat.shiftLeft_add_eq_or_of_lt hp _
  rw [btPack2_toNat, hs, Nat.or_comm, ← Nat.shiftLeft_eq, ← hor, Nat.shiftLeft_eq]
  omega

/-- Settles O39: each packed byte is below its bound, so that a field is a quotient and remainder of it
(`btPack2_fields`). -/
theorem unpackRecoversFields : Obligations.UnpackRecoversFields := by
  unfold Obligations.UnpackRecoversFields
  intro g brp prop ps1 ps2 hwb hwp hw1 hw2 hs hfits
  simp only [btFits, hwb, hwp, hw1, hw2, Bool.and_eq_true, decide_eq_true_eq] at hfits
  obtain ⟨⟨⟨hb, hp⟩, h1⟩, h2⟩ := hfits
  have hpack := btPack2_fields hs hp h1
  simp only [btUnpack, btPack1, btPack3, BitVec.extractLsb'_toNat, hpack, Nat.shiftRight_eq_div_pow]
  omega

/-- The time quantum times the oscillator's frequency is its count of periods (R188). -/
theorem tqSeconds_mul {g : Cfg} (brp : Byte) (hF : 0 < g.F_OSC_HZ) :
    tqSeconds g brp * (g.F_OSC_HZ : Rat) = ((2 * (brp.toNat + 1) : Nat) : Rat) := by
  have hF : (g.F_OSC_HZ : Rat) ≠ 0 := by exact_mod_cast hF.ne'
  exact div_mul_cancel₀ _ hF

/-- When there is a prescaler field, and which (R189). -/
theorem btBrpFor_eq_some {g : Cfg} {tq : Rat} {n : Nat} : btBrpFor g tq = some n ↔
    n < 2 ^ g.W_BRP ∧ tq * (g.F_OSC_HZ : Rat) = ((2 * (n + 1) : Nat) : Rat) := by
  unfold btBrpFor
  simp only []
  constructor
  · intro h
    split at h
    · rename_i hc
      obtain ⟨hden, hpos, heven, hlt⟩ := hc
      obtain rfl := Option.some.inj h
      refine ⟨hlt, ?_⟩
      have hnum : (tq * (g.F_OSC_HZ : Rat)).num =
          ((2 * ((tq * (g.F_OSC_HZ : Rat)).num.toNat / 2 - 1 + 1) : Nat) : Int) := by omega
      rw [← Rat.coe_int_num_of_den_eq_one hden]
      exact_mod_cast congrArg (Int.cast : Int → Rat) hnum
    · cases h
  · rintro ⟨hlt, htq⟩
    rw [htq, Rat.num_natCast, Rat.den_natCast]
    have hhalf : ((2 * (n + 1) : Nat) : Int).toNat / 2 - 1 = n := by omega
    rw [hhalf]
    exact if_pos ⟨rfl, by omega, by omega, hlt⟩

/-- Settles O40: both directions are `btBrpFor_eq_some`, the first at the time quantum of the field (`tqSeconds_mul`). -/
theorem brpForInvertsTq : Obligations.BrpForInvertsTq := by
  unfold Obligations.BrpForInvertsTq
  exact fun g brp hF => ⟨fun hlt => btBrpFor_eq_some.mpr ⟨hlt, tqSeconds_mul brp hF⟩,
    fun _ _ h => btBrpFor_eq_some.mp h⟩

/-- Settles O49: the words of R200 with the constants of R9 put in. -/
theorem canInitWords : Obligations.CanInitWords := by
  unfold Obligations.CanInitWords
  decide

end Sys2Proof.Machine
end

section
/-! The exchange as a command (40_transport.md R126), the engine in flight (R130, R131), and the host's check of a read of the
mode (43_sequences.md R202). -/

namespace Sys2Proof.Machine

theorem drawsStarted_some (o : Byte) (s : State) : drawsStarted (some o) s = s.draws := if_neg nofun

/-- A selected slave's answer to one byte, as the slave's part of a run over one byte. -/
theorem Answered.slaveBytes {s t : State} {o i : Byte} (h : Answered (some o) s t o i) (hc : s.csN = some false) :
    SlaveBytes s t [o] [i] := by
  unfold Answered at h
  rw [if_pos hc, drawsStarted_some] at h
  unfold SlaveBytes
  split <;> rename_i hk <;> rw [hk] at h
  · simpa using h
  all_goals
    obtain ⟨hi, ha, hd, hr⟩ := h
    exact ⟨by rw [hi, hr]; rfl, ha, hd⟩

/-- With no slave selected the byte is drawn. -/
theorem Answered.nobody {s t : State} {o i : Byte} (h : Answered (some o) s t o i) (hc : s.csN ≠ some false) :
    NobodyAnswered s t i := by
  unfold Answered at h
  rwa [if_neg hc, drawsStarted_some] at h

/-- Settles O13: the whole exchange is `exec_xchg`; where its byte comes from is `Answered`. -/
theorem xchgEffect : Obligations.XchgEffect := by
  unfold Obligations.XchgEffect
  intro a b c s h
  obtain ⟨t, i, he, hans, ht⟩ := exec_xchg a b c h
  exact ⟨t, i, he, hans.slaveBytes, hans.nobody, ht⟩

/-- An oracle with as many given answers as samples are taken gives these. -/
theorem oracleSamples_given (ms rest : List Bool) (d : Nat) : oracleSamples ms.length (ms ++ rest) d = (ms, rest, d) := by
  induction ms with
  | nil => rfl
  | cons m ms ih => simp [oracleSamples, ih]

/-- Settles O14: the samples are the answers given (`oracleSamples_given`), and a byte is its eight bits (`byte_ext`). -/
theorem xchgReturnsSamples : Obligations.XchgReturnsSamples := by
  unfold Obligations.XchgReturnsSamples
  intro a b c i rest s h hc hk ha
  obtain ⟨t, j, he, hans, ht⟩ := exec_xchg a b c h
  unfold Answered at hans
  rw [if_pos hc, hk, ha] at hans
  obtain ⟨hsam, _⟩ := hans
  have hgiven := hsam.trans (oracleSamples_given (byteBits i) rest _)
  obtain ⟨hbits, hleft⟩ := Prod.mk.inj hgiven
  obtain rfl : j = i := byte_ext hbits
  refine ⟨t, he, ?_, ?_, (Prod.mk.inj hleft).1, ?_⟩ <;> rw [ht]

theorem leadingEdge_isSome (s : State) :
    (leadingEdge s).isSome = true ↔ s.busy = true ∧ s.sck = some true ∧ s.bitcnt.toNat < 8 := by
  rw [leadingEdge, Option.isSome_ite]

theorem trailingEdge_isSome (s : State) : (trailingEdge s).isSome = true ↔ s.busy = true ∧ s.sck = some false := by
  rw [trailingEdge, Option.isSome_ite]

/-- In flight, the small step is the engine's if it takes one (40_transport.md R131). -/
theorem smallStep_flying {s : State} (h : Inv s) (hb : s.busy = true) : smallStep s = scheduledStep s := by
  have hx := h.flagsAtExchange (.inl hb)
  have ht : s.tc = false := by simpa using fun ht => h.flagsExclusive ⟨ht, hb⟩
  unfold smallStep
  cases hp : currentPrim s with
  | none =>
    rw [hp] at hx
    cases hx
  | some p =>
    cases p with
    | csLow | csHigh =>
      rw [hp] at hx
      cases hx
    | xchg out result => simp [xchgStep, ht, hb]

/-- In flight SCK is driven, at one of its two levels. -/
theorem Inv.sck_flying {s : State} (h : Inv s) (hb : s.busy = true) : s.sck = some true ∨ s.sck = some false := by
  have hk := (h.driven (h.busyEnabled hb)).2
  match hs : s.sck with
  | none => exact absurd hs hk
  | some true => exact .inl rfl
  | some false => exact .inr rfl

/-- Settles O15: the level of SCK decides which edge is enabled, and the small step is the engine's (`smallStep_flying`). -/
theorem edgesAlternate : Obligations.EdgesAlternate := by
  unfold Obligations.EdgesAlternate
  intro s h hb
  have hlt := h.bitcntFlying hb
  rw [leadingEdge_isSome, trailingEdge_isSome, smallStep_flying h hb]
  refine ⟨⟨fun e => e.2.1, fun e => ⟨hb, e, hlt⟩⟩, ⟨fun e => e.2, fun e => ⟨hb, e⟩⟩, ?_, rfl⟩
  obtain e | e := h.sck_flying hb <;> simp [e, hb, hlt]

/-- The engine that takes no step of a transfer in flight leaves the state as it is. -/
theorem smallStep_hung {s : State} (h : Inv s) (hb : s.busy = true) (hs : s.sched = some 0) : smallStep s = none := by
  rw [smallStep_flying h hb]
  exact if_pos hs

/-- Settles O16: no small step is taken (`smallStep_hung`), so the run leaves the state (`runFor_hung`). -/
theorem hangIsKept : Obligations.HangIsKept := by
  unfold Obligations.HangIsKept
  intro s h hb hs hr hi
  have hx := h.flagsAtExchange (.inl hb)
  have hf : s.fop ≠ .idle := by
    intro hf
    rw [currentPrim_idle hf] at hx
    cases hx
  rw [step_waits hf (hi.imp_right .inl)]
  exact congrArg _ (runFor_hung hr (smallStep_hung h hb hs) _)

/-- The byte of a response is the byte it was made of. -/
theorem setWidth_okWord (r : RespWord) : (okWord (r.setWidth 10)).setWidth 8 = r.setWidth 8 := by
  refine BitVec.eq_of_getLsbD_eq fun i hi => ?_
  unfold okWord
  rw [BitVec.getLsbD_setWidth, BitVec.getLsbD_setWidth, BitVec.getLsbD_append, if_pos (by omega),
    BitVec.getLsbD_setWidth]
  simp [show i < 10 by omega]

/-- The ways a read of the mode-status register can stand (43_sequences.md R202): in progress with nothing returned, ended by
a reset with nothing returned, or completed with the byte of its response. -/
def ModeReadStands (s : State) : Prop :=
  (Inv s ∧ s.fop = .fRead ∧ s.opa = s.cfg.ADDR_CANSTAT) ∨
  (s.fop = .idle ∧ s.en = false ∧ s.modeRead = none) ∨
  (s.fop = .idle ∧ s.en = true ∧ s.modeRead = some (s.rsp.setWidth 8))

/-- A command ends in the finish step of XCHG or after the last primitive of its frames, and nowhere else. -/
theorem smallStep_ends {s t : State} (hs : smallStep s = some t) :
    t.fop = s.fop ∨ (s.fop = .xchg ∧ s.tc = true ∧ t = respond (zextData s.data) (flagsTaken s)) ∨ t = respondEnd s := by
  obtain ⟨_, rfl⟩ | ⟨_, rfl⟩ | ⟨out, result, _, hx⟩ | ⟨_, rfl⟩ := smallStep_cases hs
  · exact .inl (by rw [selectLow_frame]; rfl)
  · exact .inl (by rw [selectHigh_frame]; rfl)
  · obtain ⟨ht, hf, rfl⟩ | ⟨_, _, rfl⟩ | ⟨_, _, _, _, _, rfl⟩ | ⟨_, _, _, _, rfl⟩ | ⟨_, _, _, _, rfl⟩ := hx
    · exact .inr (.inl ⟨hf, ht, rfl⟩)
    · cases result <;> exact .inl rfl
    · exact .inl rfl
    · left
      unfold afterTrailing
      rw [slaveClock_eq]
      simp only []
      split <;> rfl
    · exact .inl rfl
  · exact .inr (.inr rfl)

/-- The small step of a read of the mode ends it with its byte or leaves it in progress. -/
theorem modeRead_smallStep {s t : State} (h : Inv s) (hf : s.fop = .fRead) (ha : s.opa = s.cfg.ADDR_CANSTAT)
    (hs : smallStep s = some t) : ModeReadStands t := by
  have hen : s.en = true := h.inProgressEnabled (by simp [hf])
  obtain hp | ⟨hx, _⟩ | rfl := smallStep_ends hs
  · exact .inl ⟨h.smallStep hs, hp.trans hf, by rw [(latched_smallStep hs).opa, (undisturbed_smallStep hs).cfg, ha]⟩
  · cases hf.symm.trans hx
  · refine .inr (.inr ⟨rfl, hen, ?_⟩)
    simp [respondEnd, hf, ha, hasResult, setWidth_okWord]

/-- Every moment leaves a read of the mode in one of these ways. -/
theorem modeReadStands_tick {s : State} (h : ModeReadStands s) : ModeReadStands (tick s) := by
  obtain ⟨hi, hf, ha⟩ | ⟨hf, _⟩ | ⟨hf, _⟩ := id h
  · have hm : s.modeRead = none := hi.readCompleted ⟨hf, ha⟩
    have hc : Inv (countDown s) := kept_inv.moment s hi
    obtain ⟨hidle, _⟩ | ⟨_, _, e⟩ | ⟨_, _, ⟨_, e⟩ | hs⟩ := tick_cases s
    · cases hf.symm.trans hidle
    · rw [e]
      exact .inr (.inl ⟨rfl, rfl, hm⟩)
    · rw [e]
      exact .inl ⟨hc, hf, ha⟩
    · exact modeRead_smallStep hc hf ha hs
  · rwa [tick_idle hf]
  · rwa [tick_idle hf]

/-- The check with the byte of a completed read (R202 step 4). -/
theorem checkLoopback_some {s : State} {v : Byte} (hm : s.modeRead = some v) : checkLoopback s = { s with
    ok := some (decide ((v &&& s.cfg.MODE_MASK) = s.cfg.MODE_LOOPBACK))
    diag := if (v &&& s.cfg.MODE_MASK) ≠ s.cfg.MODE_LOOPBACK ∧ s.cfg.DIAG_ENABLED = true
      then s.diag ++ [.verificationFailure s.cfg.MODE_LOOPBACK (v &&& s.cfg.MODE_MASK)] else s.diag } := by
  unfold checkLoopback
  rw [hm]
  simp only []
  split <;> rename_i hv
  · simp [hv]
  · unfold diagnose
    split <;> rename_i hd
    · simp [hv, show s.cfg.DIAG_ENABLED = true from hd]
    · simp [hv, show ¬ s.cfg.DIAG_ENABLED = true from hd]

/-- Without a completed read there is no result (R202 case c). -/
theorem checkLoopback_none {s : State} (hm : s.modeRead = none) : checkLoopback s = { s with ok := none } := by
  unfold checkLoopback
  rw [hm]

/-- At an open port the host makes its check. -/
theorem step_check {s : State} {rest : List Input} (hi : s.inputs = .checkLoopback :: rest) (hf : s.fop = .idle) :
    step s = .next (checkLoopback { s with inputs := rest }) := by
  unfold step
  rw [hi]
  exact if_pos hf

/-- Settles O50: the check itself (`checkLoopback_some`, `checkLoopback_none`); while its read is in progress it waits
(`step_waits`), and the run leaves the read in one of three ways (`modeReadStands_tick`). -/
theorem loopbackCheck : Obligations.LoopbackCheck := by
  unfold Obligations.LoopbackCheck
  intro s rest hi
  refine ⟨fun hf v hm => ?_, fun hf hm => ?_, fun h hf ha => ?_⟩
  · exact (step_check hi hf).trans (congrArg _ (checkLoopback_some (s := { s with inputs := rest }) hm))
  · exact (step_check hi hf).trans (congrArg _ (checkLoopback_none (s := { s with inputs := rest }) hm))
  · have hrun := undisturbed_resume s
    have hstart : ModeReadStands s := .inl ⟨h, hf, ha⟩
    have hstands := resume_of_tick (P := ModeReadStands) (fun _ => modeReadStands_tick) hstart
    have hwait : s.fop ≠ .idle := by simp [hf]
    have hstep := step_waits hwait (.inr (.inr ⟨rest, hi⟩))
    generalize resume s = t at hrun hstands hstep
    refine ⟨t, hstep, hrun.ok, hrun.diag, hrun.inputs, ?_⟩
    obtain ⟨hinv, hf', ha'⟩ | ⟨hf', hen, hm⟩ | hdone := hstands
    · exact .inl ⟨hf', hinv.readCompleted ⟨hf', ha'⟩⟩
    · refine .inr (.inl ⟨hf', hen, hm, ?_⟩)
      exact (step_check (hrun.inputs.trans hi) hf').trans
        (congrArg _ (checkLoopback_none (s := { t with inputs := rest }) hm))
    · exact .inr (.inr hdone)

end Sys2Proof.Machine
end

section
/-! Completion (40_transport.md R130, R131): a command in progress has a bounded number of small steps to go, each small step
is one less, and only the engine can withhold one; a schedule of the engine's steps delays the run and changes nothing else. -/

namespace Sys2Proof.Machine

/-- The small steps of a primitive: one for chip-select; for an exchange the start, sixteen edges and the finish. -/
def primSteps : Prim → Nat
  | .csLow | .csHigh => 1
  | .xchg _ _ => 18

/-- The small steps of a list of primitives. -/
def stepsOf (ps : List Prim) : Nat := (ps.map primSteps).sum

/-- The small steps already done of the primitive in progress. -/
def stepsDone (s : State) : Nat :=
  if s.tc = true then 17
  else if s.busy = true then 2 * s.bitcnt.toNat + (if s.sck = some false then 2 else 1)
  else 0

/-- The command in progress, if any, has at most `n` small steps to go, the response among them. -/
def Within (n : Nat) (s : State) : Prop := s.fop = .idle ∨ stepsOf (remaining s) + 1 ≤ n + stepsDone s

theorem remaining_of_currentPrim {s : State} {p : Prim} (hp : currentPrim s = some p) :
    remaining s = p :: remaining (nextPrim s) := by
  obtain ⟨hlt, hget⟩ := List.getElem?_eq_some_iff.mp hp
  have hnext : remaining (nextPrim s) = (script s).drop (s.fidx.toNat + 1) := by
    rw [← fidx_succ_toNat hp]
    rfl
  rw [hnext, remaining, List.drop_eq_getElem_cons hlt, hget]

theorem stepsOf_remaining {s : State} {p : Prim} (hp : currentPrim s = some p) :
    stepsOf (remaining s) = primSteps p + stepsOf (remaining (nextPrim s)) := by
  rw [remaining_of_currentPrim hp]
  rfl

/-- No command has more than 113 small steps: those of F_RDRXB. -/
theorem within_longest (s : State) : Within longest s := by
  have hscript : stepsOf (script s) ≤ 112 := by
    unfold script
    split <;> simp [stepsOf, primSteps, xchgScript, fResetScript, fReadScript, fWriteScript, fBitmodScript, fRtsScript,
      fRdstatScript, fRdrxbScript, frame]
  have hsplit := congrArg stepsOf (List.take_append_drop s.fidx.toNat (script s))
  have hremaining : stepsOf (remaining s) ≤ stepsOf (script s) := by
    simp only [stepsOf, List.map_append, List.sum_append] at hsplit
    simp only [stepsOf, remaining]
    omega
  right
  unfold longest
  omega

/-- The flags are used by an exchange alone, of which at most seventeen steps are done. -/
theorem stepsDone_le {s : State} (h : Inv s) : stepsDone s ≤ stepsOf (remaining s) := by
  by_cases hflag : s.busy = true ∨ s.tc = true
  · have hx := h.flagsAtExchange hflag
    have hdone : stepsDone s ≤ 18 := by
      unfold stepsDone
      split
      · omega
      · split
        · rename_i hb
          have hlt := h.bitcntFlying hb
          split <;> omega
        · omega
    match hp : currentPrim s with
    | none => simp [hp, isXchg] at hx
    | some .csLow => simp [hp, isXchg] at hx
    | some .csHigh => simp [hp, isXchg] at hx
    | some (.xchg out result) =>
      rw [stepsOf_remaining hp, primSteps]
      omega
  · push Not at hflag
    simp [stepsDone, hflag]

theorem stepsDone_resting {s : State} (h : AtRest s) : stepsDone s = 0 := by simp [stepsDone, h.notBusy, h.taken]

/-- Each small step is one less to go. -/
theorem Within.smallStep {s t : State} {n : Nat} (hw : Within (n + 1) s) (h : Inv s) (hf : s.fop ≠ .idle)
    (hs : smallStep s = some t) : Within n t := by
  have hw := hw.resolve_left hf
  obtain ⟨hp, rfl⟩ | ⟨hp, rfl⟩ | ⟨out, result, hp, hx⟩ | ⟨_, rfl⟩ := smallStep_cases hs
  · have hrest := h.atRest (by rw [hp]; rfl)
    rw [stepsOf_remaining hp, stepsDone_resting hrest, primSteps] at hw
    have hd : stepsDone (nextPrim (selectLow s)) = 0 := stepsDone_resting { hrest.selectLow with }
    have hr : remaining (nextPrim (selectLow s)) = remaining (nextPrim s) := by
      rw [selectLow_frame]
      rfl
    right
    rw [hd, hr]
    omega
  · have hrest := h.atRest (by rw [hp]; rfl)
    rw [stepsOf_remaining hp, stepsDone_resting hrest, primSteps] at hw
    have hd : stepsDone (nextPrim (selectHigh s)) = 0 := stepsDone_resting { hrest.selectHigh with }
    have hr : remaining (nextPrim (selectHigh s)) = remaining (nextPrim s) := by
      rw [selectHigh_frame]
      rfl
    right
    rw [hd, hr]
    omega
  · obtain ⟨_, _, rfl⟩ | ⟨ht, _, rfl⟩ | ⟨ht, _, hb, hk, _, rfl⟩ | ⟨ht, _, hb, hk, rfl⟩ |
      ⟨ht, hb, hen, _, rfl⟩ := hx
    · exact .inl rfl
    · have hb : s.busy = false := by simpa using fun hb => h.flagsExclusive ⟨ht, hb⟩
      have hd : stepsDone s = 17 := if_pos ht
      rw [stepsOf_remaining hp, hd, primSteps] at hw
      right
      have hr : remaining (nextPrim (takeByte result s)) = remaining (nextPrim s) := by cases result <;> rfl
      rw [hr]
      omega
    · have hd : stepsDone s + 1 = stepsDone (spend (afterLeading s)) := by
        simp [stepsDone, ht, hb, hk, afterLeading]
      right
      have hr : remaining (spend (afterLeading s)) = remaining s := rfl
      rw [hr]
      omega
    · have hlt := h.bitcntFlying hb
      by_cases h8 : s.bitcnt + 1 = 8
      · have h7 : s.bitcnt.toNat = 7 := by bv_omega
        rw [afterTrailing_last h8]
        have hd : stepsDone s = 16 := by simp [stepsDone, ht, hb, hk, h7]
        right
        show stepsOf (remaining s) + 1 ≤ n + 17
        omega
      · have hsucc : (s.bitcnt + 1).toNat = s.bitcnt.toNat + 1 := by bv_omega
        rw [afterTrailing_mid h8]
        have hd : stepsDone s = 2 * s.bitcnt.toNat + 2 := by simp [stepsDone, ht, hb, hk]
        right
        simp only [stepsDone, spend, ht, hb, hsucc]
        show stepsOf (remaining s) + 1 ≤ n + (2 * (s.bitcnt.toNat + 1) + 1)
        omega
    · have hd : stepsDone s = 0 := by simp [stepsDone, ht, hb]
      have hk := h.sckIdle hb hen
      right
      simp only [stepsDone, afterStart, hk]
      show stepsOf (remaining s) + 1 ≤ n + 1
      omega
  · exact .inl rfl

/-- With SCK at its idle level the engine's step is the leading edge. -/
theorem engineStep_high {s : State} (hb : s.busy = true) (hk : s.sck = some true) (hlt : s.bitcnt.toNat < 8) :
    engineStep s = some (afterLeading s) := by
  simp [engineStep, leadingEdge, hb, hk, hlt, afterLeading]

/-- With SCK low it is the trailing edge. -/
theorem engineStep_low {s : State} (hb : s.busy = true) (hk : s.sck = some false) :
    engineStep s = some (afterTrailing s) := by
  simp [engineStep, leadingEdge, trailingEdge, hb, hk, afterTrailing]

/-- Only the engine can withhold a small step, and only of a transfer in flight (R131). -/
theorem smallStep_none {s : State} (h : Inv s) (hs : smallStep s = none) : s.busy = true ∧ s.sched = some 0 := by
  by_cases hb : s.busy = true
  · refine ⟨hb, ?_⟩
    rw [smallStep_flying h hb] at hs
    by_contra hsched
    rw [scheduledStep, if_neg hsched] at hs
    obtain hk | hk := h.sck_flying hb
    · simp [engineStep_high hb hk (h.bitcntFlying hb)] at hs
    · simp [engineStep_low hb hk] at hs
  · unfold smallStep at hs
    split at hs
    · cases hs
    · cases hs
    · rename_i out result hp
      have hen := h.inProgressEnabled (running_of_currentPrim hp)
      have hm := (h.controlFields hen).1
      unfold xchgStep at hs
      split at hs
      · cases hs
      · cases out <;> simp [startByte, hen, hm, hb] at hs
    · cases hs

/-- A command that rests, rests in a transfer the engine does not clock. -/
def Rests (s : State) : Prop := s.fop = .idle ∨ (s.busy = true ∧ s.sched = some 0)

/-- With no reset to come, a command with at most `n` small steps to go has ended or rests after `n` moments. -/
theorem rests_runFor {n : Nat} {s : State} (h : Inv s) (hr : s.resetIn = none) (hw : Within n s) :
    Rests (runFor n s) := by
  induction n generalizing s with
  | zero =>
    refine .inl (hw.resolve_right fun hle => ?_)
    have := stepsDone_le h
    omega
  | succ n ih =>
    by_cases hf : s.fop = .idle
    · exact .inl (by rw [runFor_idle hf, hf])
    · cases hs : smallStep s with
      | none => exact .inr (by rw [runFor_hung hr hs]; exact smallStep_none h hs)
      | some t =>
        rw [runFor, tick_of_smallStep hf hr hs]
        exact ih (h.smallStep hs) ((latched_smallStep hs).resetIn.trans hr) (hw.smallStep h hf hs)

theorem rests_resume {s : State} (h : Inv s) (hr : s.resetIn = none) : Rests (resume s) :=
  rests_runFor h hr (within_longest s)

/-- The state with the engine bound to every step. -/
abbrev unscheduled (s : State) : State := { s with sched := none }

theorem unscheduled_of_fair {s : State} (h : s.sched = none) : unscheduled s = s := by
  cases s
  cases h
  rfl

theorem slaveCsFall_unscheduled (s : State) : slaveCsFall (unscheduled s) = unscheduled (slaveCsFall s) := by
  unfold slaveCsFall
  cases s.slave <;> rfl

theorem selectLow_unscheduled (s : State) : selectLow (unscheduled s) = unscheduled (selectLow s) := by
  unfold selectLow
  by_cases hc : s.csN = some true
  · rw [if_pos hc, if_pos hc]
    exact slaveCsFall_unscheduled (emit .csFall { s with csN := some false })
  · rw [if_neg hc, if_neg hc]

theorem selectHigh_unscheduled (s : State) : selectHigh (unscheduled s) = unscheduled (selectHigh s) := by
  rw [selectHigh_frame, selectHigh_frame]

theorem slaveClock_unscheduled (s : State) : slaveClock (unscheduled s) = unscheduled (slaveClock s) := by
  unfold slaveClock
  by_cases hc : s.csN = some false
  · rw [if_pos hc, if_pos hc]
    cases s.slave <;> cases s.answers <;> rfl
  · rw [if_neg hc, if_neg hc]

theorem afterTrailing_unscheduled (s : State) : afterTrailing (unscheduled s) = unscheduled (afterTrailing s) := by
  have hm : misoLevel (unscheduled s) = misoLevel s := rfl
  unfold afterTrailing
  rw [slaveClock_unscheduled, hm]
  simp only []
  by_cases h8 : (takeSample (misoLevel s) (slaveClock s)).bitcnt = 8
  · have h8' : (takeSample (misoLevel s) (unscheduled (slaveClock s))).bitcnt = 8 := h8
    rw [if_pos h8', if_pos h8]
    rfl
  · have h8' : ¬ (takeSample (misoLevel s) (unscheduled (slaveClock s))).bitcnt = 8 := h8
    rw [if_neg h8', if_neg h8]
    rfl

/-- A small step the engine's schedule allows is the one taken without a schedule. -/
theorem smallStep_unscheduled {s t : State} (hs : smallStep s = some t) :
    smallStep (unscheduled s) = some (unscheduled t) := by
  have prim : currentPrim (unscheduled s) = currentPrim s := rfl
  obtain ⟨hp, rfl⟩ | ⟨hp, rfl⟩ | ⟨out, result, hp, hx⟩ | ⟨hp, rfl⟩ := smallStep_cases hs <;>
    unfold smallStep <;> rw [prim, hp]
  · exact congrArg (some ∘ nextPrim) (selectLow_unscheduled s)
  · exact congrArg (some ∘ nextPrim) (selectHigh_unscheduled s)
  · show xchgStep out result (unscheduled s) = _
    obtain ⟨ht, hf, rfl⟩ | ⟨ht, hf, rfl⟩ | ⟨ht, _, hb, hk, hlt, rfl⟩ | ⟨ht, _, hb, hk, rfl⟩ |
      ⟨ht, hb, hen, hm, rfl⟩ := hx
    · simp [xchgStep, finishByte, ht, hf]
      rfl
    · cases result <;> simp [xchgStep, finishByte, ht, hf] <;> rfl
    · simp [xchgStep, ht, hb, scheduledStep, engineStep_high (s := unscheduled s) hb hk hlt]
      rfl
    · simp [xchgStep, ht, hb, scheduledStep, engineStep_low (s := unscheduled s) hb hk, afterTrailing_unscheduled]
      rfl
    · cases out <;> simp [xchgStep, ht, hb, startByte, hen, hm, afterStart] <;> rfl
  · rfl

/-- A run under a schedule is a shorter run without one. -/
theorem runFor_unscheduled {s : State} (hr : s.resetIn = none) (m : Nat) :
    ∃ k, unscheduled (runFor m s) = runFor k (unscheduled s) := by
  induction m generalizing s with
  | zero => exact ⟨0, rfl⟩
  | succ m ih =>
    rw [runFor]
    by_cases hf : s.fop = .idle
    · rw [tick_idle hf]
      exact ih hr
    · cases hs : smallStep s with
      | none =>
        rw [tick_hung hr hs]
        exact ih hr
      | some t =>
        rw [tick_of_smallStep hf hr hs]
        obtain ⟨k, hk⟩ := ih ((latched_smallStep hs).resetIn.trans hr)
        refine ⟨k + 1, ?_⟩
        rw [hk, runFor, tick_of_smallStep (s := unscheduled s) hf hr (smallStep_unscheduled hs)]

/-- Without a schedule none comes about. -/
theorem fair_resume {s : State} (hr : s.resetIn = none) (hs : s.sched = none) : (resume s).sched = none := by
  have hp : ∀ u : State, u.resetIn = none ∧ u.sched = none → (tick u).resetIn = none ∧ (tick u).sched = none := by
    rintro u ⟨hr, hs⟩
    obtain e | hu := tick_calm hr
    · exact e.symm ▸ ⟨hr, hs⟩
    · have hun := smallStep_unscheduled hu
      rw [unscheduled_of_fair hs, hu] at hun
      exact ⟨(latched_smallStep hu).resetIn.trans hr, congrArg State.sched (Option.some.inj hun)⟩
  exact (resume_of_tick (P := fun u => u.resetIn = none ∧ u.sched = none) hp ⟨hr, hs⟩).2

/-- Under EngineFair and with no reset to come every command in progress ends. -/
theorem resume_ends {s : State} (h : Inv s) (hs : s.sched = none) (hr : s.resetIn = none) : (resume s).fop = .idle := by
  refine (rests_resume h hr).resolve_right fun hrest => ?_
  cases (fair_resume hr hs).symm.trans hrest.2

/-- Settles O18: the scheduled run is part of the run without a schedule (`runFor_unscheduled`), which from any of its states
ends where the whole ends. -/
theorem restingChangesNothing : Obligations.RestingChangesNothing := by
  unfold Obligations.RestingChangesNothing
  intro s n h hs hr
  obtain ⟨k, hk⟩ := runFor_unscheduled (s := { s with sched := some n }) hr longest
  have hk : unscheduled (resume { s with sched := some n }) = runFor k s := by
    rw [resume, hk]
    exact congrArg _ (unscheduled_of_fair hs)
  calc resume (unscheduled (resume { s with sched := some n }))
      = resume (runFor k s) := congrArg resume hk
    _ = runFor (k + longest) s := (runFor_add k longest s).symm
    _ = runFor k (resume s) := by rw [Nat.add_comm, runFor_add, resume]
    _ = resume s := runFor_idle (resume_ends h hs hr) k

/-- The command XCHG in flight under a schedule: `k` of its edges are taken, `m` steps of the engine are left. -/
structure Clocking (m k : Nat) (s : State) : Prop where
  command : s.fop = .xchg
  fidx : s.fidx = 0
  calm : s.resetIn = none
  busy : s.busy = true
  taken : s.tc = false
  bits : s.bitcnt.toNat = k / 2
  sck : s.sck = some (decide (k % 2 = 0))
  sched : s.sched = some m

theorem currentPrim_xchg {s : State} (hf : s.fop = .xchg) (hx : s.fidx = 0) :
    currentPrim s = some (.xchg (some s.opa) true) := by
  simp [currentPrim, script, xchgScript, hf, hx]

/-- In flight a moment is the engine's step, if its schedule has one. -/
theorem Clocking.smallStep {m k : Nat} {s : State} (h : Clocking m k s) : smallStep s = scheduledStep s := by
  simp [Machine.smallStep, currentPrim_xchg h.command h.fidx, xchgStep, h.taken, h.busy]

/-- An engine step of an XCHG under a schedule. -/
theorem Clocking.tick {m k : Nat} {s t : State} (h : Clocking (m + 1) k s) (he : engineStep s = some t) :
    Machine.tick s = spend t := by
  refine tick_of_smallStep (by simp [h.command]) h.calm ?_
  rw [h.smallStep, scheduledStep, if_neg (by simp [h.sched]), he]
  rfl

/-- One edge more, before the last. -/
theorem Clocking.next {m k : Nat} {s : State} (h : Clocking (m + 1) k s) (hk : k < 15) :
    Clocking m (k + 1) (Machine.tick s) := by
  have hbits := h.bits
  have hsched : s.sched.map (· - 1) = some m := by simp [h.sched]
  obtain he | ho := Nat.mod_two_eq_zero_or_one k
  · have hhigh : s.sck = some true := by simp [h.sck, he]
    rw [h.tick (engineStep_high h.busy hhigh (by omega))]
    exact { h with
      bits := by show s.bitcnt.toNat = _; omega
      sck := by show some false = _; simp; omega
      sched := hsched }
  · have hlow : s.sck = some false := by simp [h.sck, ho]
    have h8 : s.bitcnt + 1 ≠ 8 := by bv_omega
    have hsucc : (s.bitcnt + 1).toNat = s.bitcnt.toNat + 1 := by bv_omega
    rw [h.tick (engineStep_low h.busy hlow), afterTrailing_mid h8]
    exact { h with
      bits := by show (s.bitcnt + 1).toNat = _; omega
      sck := by show some true = _; simp; omega
      sched := hsched }

/-- As many edges as the schedule has, before the last. -/
theorem Clocking.runFor {m k : Nat} (j : Nat) {s : State} (h : Clocking (m + j) k s) (hk : k + j < 16) :
    Clocking m (k + j) (Machine.runFor j s) := by
  induction j generalizing k s with
  | zero => exact h
  | succ j ih =>
    have hnext := ih (h.next (by omega)) (by omega)
    rwa [Nat.add_right_comm, Nat.add_assoc] at hnext

/-- The last edge and the finish step, which responds (R129). -/
theorem Clocking.finish {m : Nat} {s : State} (h : Clocking (m + 1) 15 s) :
    (Machine.runFor 2 s).fop = .idle ∧ (Machine.runFor 2 s).sched = some m := by
  have h8 : s.bitcnt + 1 = 8 := by
    have := h.bits
    bv_omega
  have hsched : s.sched.map (· - 1) = some m := by simp [h.sched]
  have hlast : Machine.tick s = spend (afterTrailing s) := h.tick (engineStep_low h.busy h.sck)
  rw [afterTrailing_last h8] at hlast
  have hdone := tick_finish (s := Machine.tick s) (out := some s.opa) (result := true)
    (by rw [hlast]; exact currentPrim_xchg h.command h.fidx) (by rw [hlast]; simp [h.command]) (by rw [hlast]; exact h.calm)
    (by rw [hlast]; rfl)
  have hfin : finishByte true (Machine.tick s) = respond (zextData (Machine.tick s).data) (flagsTaken (Machine.tick s)) :=
    if_pos (by rw [hlast]; exact h.command)
  have hrun : Machine.runFor 2 s = respond (zextData (Machine.tick s).data) (flagsTaken (Machine.tick s)) :=
    hdone.trans hfin
  rw [hrun]
  exact ⟨rfl, by rw [hlast]; exact hsched⟩

/-- The command XCHG accepted in an idling block, and its start step. -/
theorem exec_xchg_scheduled (a b c : Byte) {n : Nat} {s : State} (h : Idling s) (hr : s.resetIn = none)
    (hs : s.sched = some n) : ∃ u, exec (.xchg a b c) s = .next (Machine.runFor 127 u) ∧ Clocking n 0 u := by
  obtain ⟨hf, hen, hm, hb, ht, hk⟩ := h
  have hacc : whenEnabled resume (accept .xchg a b c s) = resume (noteBreach (accept .xchg a b c s)) :=
    whenEnabled_on (body := resume) hen
  have hnote := noteBreach_eq (accept .xchg a b c s)
  have hexec : exec (.xchg a b c) s = .next (resume (noteBreach (accept .xchg a b c s))) :=
    (exec_open _ hf).trans (congrArg _ hacc)
  generalize noteBreach (accept .xchg a b c s) = v at hexec hnote
  have hstart : Machine.smallStep v = some (afterStart (some a) v) := by
    rw [hnote]
    simp [Machine.smallStep, currentPrim, script, xchgScript, xchgStep, startByte, ht, hb, hen, hm, afterStart, flagsStart,
      byteSent, drawsStarted]
  refine ⟨afterStart (some a) v, ?_, ?_⟩
  · rw [hexec, resume, show longest = 127 + 1 from rfl, Machine.runFor,
      tick_of_smallStep (by rw [hnote]; exact nofun) (by rw [hnote]; exact hr) hstart]
  · rw [hnote]
    exact ⟨rfl, rfl, hr, rfl, rfl, rfl, hk, hs⟩

/-- Settles O17: under EngineFair a run ends (`resume_ends`); under a schedule an XCHG takes edge by edge (`Clocking.runFor`)
and either rests or finishes (`Clocking.finish`); and what rests, rests in a transfer (`rests_resume`). -/
theorem fairEngineCompletes : Obligations.FairEngineCompletes := by
  unfold Obligations.FairEngineCompletes
  refine ⟨fun s h hs hr => ⟨resume_ends h hs hr, fun hf i => ?_⟩, fun a b c n s h hr hs => ?_,
    fun s h hr => rests_resume h hr⟩
  · obtain ⟨t, he, hc⟩ := exec_cases i hf
    refine ⟨t, he, ?_⟩
    obtain ⟨_, _, rfl⟩ | ⟨_, rfl⟩ | ⟨_, _, rfl⟩ | ⟨_, _, rfl⟩ | ⟨hseq, hen, e⟩ | ⟨_, d, rfl⟩ := hc
    · rfl
    · rfl
    · rfl
    · rfl
    · have hacc := h.accepted hf hen i.a i.b i.c hseq
      rw [noteBreach_eq] at e hacc
      exact e ▸ resume_ends hacc hs hr
    · rfl
  · obtain ⟨u, he, hu⟩ := exec_xchg_scheduled a b c h hr hs
    refine ⟨_, he, fun hn => ?_, fun hn => ?_⟩
    · have hlast : Clocking (n - 16 + 1) 15 (runFor 15 u) := by
        have := Clocking.runFor (m := n - 15) 15 (by rwa [Nat.sub_add_cancel (by omega)]) (by omega)
        rwa [show n - 15 = n - 16 + 1 by omega] at this
      obtain ⟨hidle, hsched⟩ := hlast.finish
      rw [show 127 = 15 + (2 + 110) by rfl, runFor_add, runFor_add, runFor_idle hidle]
      exact ⟨hidle, hsched⟩
    · have hhung := Clocking.runFor (m := 0) (k := 0) n (by rwa [Nat.zero_add]) (by omega)
      have hnone : smallStep (runFor n u) = none := by
        rw [hhung.smallStep]
        exact if_pos hhung.sched
      rw [show 127 = n + (127 - n) by omega, runFor_add, runFor_hung hhung.calm hnone]
      exact ⟨hhung.command, hhung.busy, hhung.sched⟩

end Sys2Proof.Machine
end

section
/-! The frame commands (41_frames.md R151 to R157), each from acceptance to response: the bytes of its frames, the response,
and what else it leaves. -/

namespace Sys2Proof.Machine

/-- The DATA field of a response is what it was made of. -/
theorem okWord_data (d : RespData) : (okWord d).setWidth 10 = d := by
  refine BitVec.eq_of_getLsbD_eq fun i hi => ?_
  unfold okWord
  rw [BitVec.getLsbD_setWidth, BitVec.getLsbD_append, if_pos hi]
  simp [hi]

/-- The byte in a response is the byte it was made of. -/
theorem okWord_byte (v : Byte) : (okWord (zextData v)).setWidth 8 = v := by
  refine BitVec.eq_of_getLsbD_eq fun i hi => ?_
  unfold okWord zextData
  rw [BitVec.getLsbD_setWidth, BitVec.getLsbD_append, if_pos (by omega), BitVec.getLsbD_setWidth]
  simp [hi, show i < 10 by omega]

/-- Where every byte of a frame is given, these are the bytes sent. -/
theorem Sends.eq {ps : List (Option Byte × Bool)} {outs bs : List Byte} (h : Sends ps outs)
    (hb : ps.map Prod.fst = bs.map some) : outs = bs := by
  induction h generalizing bs with
  | nil => simpa using hb
  | cons hp _ ih =>
    match bs, hb with
    | b :: bs, hb =>
      obtain ⟨hhead, htail⟩ := List.cons.inj hb
      rw [hp b hhead, ih htail]

theorem Sends.length {ps : List (Option Byte × Bool)} {outs : List Byte} (h : Sends ps outs) : ps.length = outs.length :=
  List.Forall₂.length_eq h

theorem Sends.given {ps : List (Option Byte × Bool)} {outs bs : List Byte} (h : Sends ps outs)
    (hb : ps.map Prod.fst = bs.map some) : outs = bs ∧ ∀ q ∈ ps, q.1 ≠ none := by
  refine ⟨h.eq hb, fun q hq hn => ?_⟩
  have hmem : none ∈ ps.map Prod.fst := List.mem_map.mpr ⟨q, hq, hn⟩
  rw [hb] at hmem
  simp at hmem

/-- A frame command of one frame in a ready block with chip-select high, as `FrameDone` says it. -/
theorem exec_frame (i : Instr) (p : Option Byte × Bool) (ps : List (Option Byte × Bool)) {s : State}
    (hi : isFrame (fopOf i) = true) (hn : ps.length ≤ 3) (h : Ready s) (hc : s.csN = some true)
    (hscript : script (accept (fopOf i) i.a i.b i.c s) = frame (p :: ps)) :
    ∃ t outs ins oLast iLast, exec i s = .next t ∧ Sends (p :: ps) outs ∧ ins.length = outs.length ∧
      ((∀ q ∈ p :: ps, q.1 ≠ none) → SlaveAnswered s t outs ins) ∧
      outs.getLast? = some oLast ∧ ins.getLast? = some iLast ∧
      FrameDone { s with
        modeRead := if ReadsMode s.cfg (fopOf i) i.a then some ((resultOf (p :: ps) ins s.rsp).setWidth 8)
          else s.modeRead } t i.a i.b i.c (frameEvents outs ins) oLast iLast
        (okWord (if hasResult (fopOf i) = true then (resultOf (p :: ps) ins s.rsp).setWidth 10 else 0)) := by
  obtain ⟨t, outs, ins, oLast, iLast, he, hs, hlen, hsl, ho, hl, ht⟩ :=
    exec_oneFrame i p ps hi hn h (by simp [hc]) hscript
  rw [if_pos hc] at hsl ht
  refine ⟨t, outs, ins, oLast, iLast, he, hs, hlen, hsl, ho, hl, ?_⟩
  rw [FrameDone]
  simpa [frameEvents] using ht

/-- The same for a command with no result: it responds 0 and is no read of the mode. -/
theorem exec_frame_silent (i : Instr) (p : Option Byte × Bool) (ps : List (Option Byte × Bool)) {s : State}
    (hi : isFrame (fopOf i) = true) (hr : hasResult (fopOf i) = false) (hn : ps.length ≤ 3) (h : Ready s)
    (hc : s.csN = some true) (hscript : script (accept (fopOf i) i.a i.b i.c s) = frame (p :: ps)) :
    ∃ t outs ins oLast iLast, exec i s = .next t ∧ Sends (p :: ps) outs ∧ ins.length = outs.length ∧
      ((∀ q ∈ p :: ps, q.1 ≠ none) → SlaveAnswered s t outs ins) ∧
      outs.getLast? = some oLast ∧ ins.getLast? = some iLast ∧
      FrameDone s t i.a i.b i.c (frameEvents outs ins) oLast iLast 0 := by
  have hmode : ¬ ReadsMode s.cfg (fopOf i) i.a := fun e => by simp [e.1, hasResult] at hr
  have hzero : okWord 0 = 0 := by decide
  have hdone := exec_frame i p ps hi hn h hc hscript
  simpa only [hr, if_neg hmode, Bool.false_eq_true, if_false, hzero] using hdone

/-- Settles O19: the frame of the reset byte (`exec_frame_silent`); refused while `EN = 0` (`exec_refused`). -/
theorem fResetEffect : Obligations.FResetEffect := by
  unfold Obligations.FResetEffect
  intro a b c s hf
  refine ⟨decode_wordOf 0x10 a b c, fun hen => exec_refused (.fReset a b c) hf hen rfl, fun h hc => ?_⟩
  obtain ⟨t, outs, ins, oLast, iLast, he, hs, hlen, hsl, ho, hl, ht⟩ :=
    exec_frame_silent (.fReset a b c) (some s.cfg.CMD_RESET, false) []
      rfl rfl (by simp) h hc rfl
  obtain ⟨rfl, hgiven⟩ := hs.given (bs := [s.cfg.CMD_RESET]) rfl
  match ins, hlen with
  | [i0], _ =>
    obtain rfl := Option.some.inj ho
    obtain rfl : i0 = iLast := Option.some.inj hl
    exact ⟨t, i0, he, hsl hgiven, ht⟩

/-- Settles O21: the frame of three bytes; refused while `EN = 0`. -/
theorem fWriteEffect : Obligations.FWriteEffect := by
  unfold Obligations.FWriteEffect
  intro a b c s hf
  refine ⟨decode_wordOf 0x12 a b c, fun hen => exec_refused (.fWrite a b c) hf hen rfl, fun h hc => ?_⟩
  obtain ⟨t, outs, ins, oLast, iLast, he, hs, hlen, hsl, ho, hl, ht⟩ :=
    exec_frame_silent (.fWrite a b c) (some s.cfg.CMD_WRITE, false) [(some a, false), (some b, false)]
      rfl rfl (by simp) h hc rfl
  obtain ⟨rfl, hgiven⟩ := hs.given (bs := [s.cfg.CMD_WRITE, a, b]) rfl
  match ins, hlen with
  | [i0, i1, i2], _ =>
    obtain rfl := Option.some.inj ho
    obtain rfl : i2 = iLast := Option.some.inj hl
    exact ⟨t, i0, i1, i2, he, hsl hgiven, ht⟩

/-- Settles O22: the frame of four bytes; refused while `EN = 0`. -/
theorem fBitmodEffect : Obligations.FBitmodEffect := by
  unfold Obligations.FBitmodEffect
  intro a b c s hf
  refine ⟨decode_wordOf 0x13 a b c, fun hen => exec_refused (.fBitmod a b c) hf hen rfl, fun h hc => ?_⟩
  obtain ⟨t, outs, ins, oLast, iLast, he, hs, hlen, hsl, ho, hl, ht⟩ :=
    exec_frame_silent (.fBitmod a b c) (some s.cfg.CMD_BITMOD, false) [(some a, false), (some b, false), (some c, false)]
      rfl rfl (by simp) h hc rfl
  obtain ⟨rfl, hgiven⟩ := hs.given (bs := [s.cfg.CMD_BITMOD, a, b, c]) rfl
  match ins, hlen with
  | [i0, i1, i2, i3], _ =>
    obtain rfl := Option.some.inj ho
    obtain rfl : i3 = iLast := Option.some.inj hl
    exact ⟨t, i0, i1, i2, i3, he, hsl hgiven, ht⟩

/-- Settles O20: the frame of three bytes, whose third reply is the response and, for the mode-status register, the byte
the host checks. -/
theorem fReadEffect : Obligations.FReadEffect := by
  unfold Obligations.FReadEffect
  intro a b c s hf
  have reads : ReadsMode s.cfg .fRead a ↔ a = s.cfg.ADDR_CANSTAT := by simp [ReadsMode]
  refine ⟨decode_wordOf 0x11 a b c, fun hen => ?_, fun h hc => ?_⟩
  · have hr := exec_refused (.fRead a b c) hf hen rfl
    simpa only [fopOf, Instr.a, Instr.b, Instr.c, reads] using hr
  · obtain ⟨t, outs, ins, oLast, iLast, he, hs, hlen, hsl, ho, hl, ht⟩ :=
      exec_frame (.fRead a b c) (some s.cfg.CMD_READ, false) [(some a, false), (some s.cfg.DUMMY, true)] rfl (by simp) h hc
        rfl
    obtain ⟨rfl, hgiven⟩ := hs.given (bs := [s.cfg.CMD_READ, a, s.cfg.DUMMY]) rfl
    match ins, hlen with
    | [i0, i1, i2], _ =>
      obtain rfl : s.cfg.DUMMY = oLast := Option.some.inj ho
      obtain rfl : i2 = iLast := Option.some.inj hl
      have hres : resultOf [(some s.cfg.CMD_READ, false), (some a, false), (some s.cfg.DUMMY, true)] [i0, i1, i2] s.rsp =
          okWord (zextData i2) := rfl
      rw [hres, okWord_byte, okWord_data] at ht
      refine ⟨t, i0, i1, i2, he, hsl hgiven, ?_⟩
      simpa only [fopOf, Instr.a, Instr.b, Instr.c, reads, hasResult, if_true] using ht

/-- Settles O25: the frame of two bytes, whose second reply is the response; refused while `EN = 0`. -/
theorem fRdstatEffect : Obligations.FRdstatEffect := by
  unfold Obligations.FRdstatEffect
  intro a b c s hf
  refine ⟨decode_wordOf 0x15 a b c, fun hen => exec_refused (.fRdstat a b c) hf hen rfl, fun h hc => ?_⟩
  obtain ⟨t, outs, ins, oLast, iLast, he, hs, hlen, hsl, ho, hl, ht⟩ :=
    exec_frame (.fRdstat a b c) (some s.cfg.CMD_RDSTAT, false) [(some s.cfg.DUMMY, true)] rfl (by simp) h hc rfl
  obtain ⟨rfl, hgiven⟩ := hs.given (bs := [s.cfg.CMD_RDSTAT, s.cfg.DUMMY]) rfl
  match ins, hlen with
  | [i0, i1], _ =>
    obtain rfl : s.cfg.DUMMY = oLast := Option.some.inj ho
    obtain rfl : i1 = iLast := Option.some.inj hl
    have hres : resultOf [(some s.cfg.CMD_RDSTAT, false), (some s.cfg.DUMMY, true)] [i0, i1] s.rsp =
        okWord (zextData i1) := rfl
    have hmode : ¬ ReadsMode s.cfg .fRdstat a := nofun
    rw [hres, okWord_byte, okWord_data] at ht
    refine ⟨t, i0, i1, he, hsl hgiven, ?_⟩
    simpa only [fopOf, Instr.a, Instr.b, Instr.c, hmode, hasResult, if_true, if_false] using ht

/-- The byte of F_RTS where the spec states it (30_encoding.md R102). -/
theorem rtsByte_eq_some {g : Cfg} {n : Byte} (hn : n.toNat < g.N_TX_BUF) (h8 : n.toNat < 8) :
    rtsByte g n = some (g.CMD_RTS_BASE ||| BitVec.ofNat 8 (2 ^ n.toNat)) := by
  rw [rtsByte, if_pos ⟨hn, h8⟩, Nat.one_shiftLeft]

/-- Settles O23: the frame of the selector's byte (`rtsByte_eq_some`). -/
theorem fRtsEffect : Obligations.FRtsEffect := by
  unfold Obligations.FRtsEffect
  intro a b c s h hc hn h8
  obtain ⟨t, outs, ins, oLast, iLast, he, hs, hlen, hsl, ho, hl, ht⟩ :=
    exec_frame_silent (.fRts a b c) (rtsByte s.cfg a, false) []
      rfl rfl (by simp) h hc rfl
  obtain ⟨rfl, hgiven⟩ := hs.given (bs := [s.cfg.CMD_RTS_BASE ||| BitVec.ofNat 8 (2 ^ a.toNat)])
    (congrArg (fun o => [o]) (rtsByte_eq_some hn h8))
  match ins, hlen with
  | [i0], _ =>
    obtain rfl := Option.some.inj ho
    obtain rfl : i0 = iLast := Option.some.inj hl
    exact ⟨t, i0, he, hsl hgiven, ht⟩

/-- Settles O24: one frame whatever the byte (`exec_frame_silent`). -/
theorem fRtsOutOfRange : Obligations.FRtsOutOfRange := by
  unfold Obligations.FRtsOutOfRange
  intro a b c s h hc _
  obtain ⟨t, outs, ins, oLast, iLast, he, hs, hlen, _, ho, hl, ht⟩ :=
    exec_frame_silent (.fRts a b c) (rtsByte s.cfg a, false) [] rfl rfl (by simp) h hc rfl
  have houts := hs.length
  match outs, ins, houts, hlen with
  | [o], [i0], _, _ =>
    obtain rfl : o = oLast := Option.some.inj ho
    obtain rfl : i0 = iLast := Option.some.inj hl
    exact ⟨t, o, i0, he, ht⟩

/-- F_RDRXB, selectors in range or not: two frames, of two bytes and of four, and the second reply is the response (R157). -/
theorem exec_fRdrxb (a b c : Byte) {s : State} (h : Ready s) (hc : s.csN = some true) :
    ∃ t u o m i0 i1 j0 j1 j2 j3, exec (.fRdrxb a b c) s = .next t ∧
      (∀ x, rdrxbByte s.cfg a b = some x → o = x) ∧ (∀ x, rxifBit s.cfg a = some x → m = x) ∧
      u.slave = s.slave ∧ u.cfg = s.cfg ∧
      (rdrxbByte s.cfg a b ≠ none → SlaveAnswered s u [o, s.cfg.DUMMY] [i0, i1]) ∧
      (rxifBit s.cfg a ≠ none →
        SlaveAnswered u t [s.cfg.CMD_BITMOD, s.cfg.ADDR_CANINTF, m, 0x00] [j0, j1, j2, j3]) ∧
      FrameDone s t a b c
        (frameEvents [o, s.cfg.DUMMY] [i0, i1] ++
          frameEvents [s.cfg.CMD_BITMOD, s.cfg.ADDR_CANINTF, m, 0x00] [j0, j1, j2, j3])
        0x00 j3 (okWord (zextData i1)) := by
  obtain ⟨t, u, outs, ins, outs', ins', oLast, iLast, he, hs, hs', hlen, hlen', hsl, hsl', hk, hg, ho, hl, ht⟩ :=
    exec_twoFrames (.fRdrxb a b c) (rdrxbByte s.cfg a b, false) (some s.cfg.CMD_BITMOD, false)
      [(some s.cfg.DUMMY, true)]
      [(some s.cfg.ADDR_CANINTF, false), (rxifBit s.cfg a, false), (some 0x00, false)] rfl (by simp) h
      (by simp [hc]) rfl
  have houts := hs.length
  have houts' := hs'.length
  match outs, ins, outs', ins', houts, hlen, houts', hlen' with
  | [o, d], [i0, i1], [c0, c1, m, c3], [j0, j1, j2, j3], _, _, _, _ =>
    simp only [Sends, List.forall₂_cons, Option.some.injEq, forall_eq', List.Forall₂.nil, and_true] at hs hs'
    obtain ⟨hso, rfl⟩ := hs
    obtain ⟨rfl, rfl, hsm, rfl⟩ := hs'
    obtain rfl : 0x00 = oLast := Option.some.inj ho
    obtain rfl : j3 = iLast := Option.some.inj hl
    have hmode : ¬ ReadsMode s.cfg (fopOf (.fRdrxb a b c)) (Instr.fRdrxb a b c).a := nofun
    rw [if_pos hc] at hsl ht
    have hres : resultOf [(some s.cfg.CMD_BITMOD, false), (some s.cfg.ADDR_CANINTF, false), (rxifBit s.cfg a, false),
        (some 0x00, false)] [j0, j1, j2, j3] (resultOf [(rdrxbByte s.cfg a b, false), (some s.cfg.DUMMY, true)] [i0, i1]
        s.rsp) = okWord (zextData i1) := rfl
    rw [hres, okWord_data, if_neg hmode] at ht
    refine ⟨t, u, o, m, i0, i1, j0, j1, j2, j3, he, hso, hsm, hk, hg, fun hn => hsl ?_, fun hn => hsl' ?_, ?_⟩
    · simpa using hn
    · simpa using hn
    · rw [FrameDone]
      simpa [frameEvents, fopOf, hasResult, Instr.a, Instr.b, Instr.c] using ht

/-- The byte of F_RDRXB where the spec states it (30_encoding.md R103). -/
theorem rdrxbByte_eq_some {g : Cfg} {a b : Byte} (ha : a.toNat < g.N_RX_BUF) (hb : b.toNat < 2)
    (hsa : a.toNat <<< g.RDRXB_BUF_SHIFT < 256) (hsb : b.toNat <<< g.RDRXB_DATA_SHIFT < 256) :
    rdrxbByte g a b = some (g.CMD_RDRXB_BASE ||| BitVec.ofNat 8 (a.toNat <<< g.RDRXB_BUF_SHIFT)
      ||| BitVec.ofNat 8 (b.toNat <<< g.RDRXB_DATA_SHIFT)) := by
  rw [rdrxbByte, if_pos ⟨ha, hb, by simp [Cfg.rdrxbInByte, hsa, hsb]⟩]

theorem rxifBit_of_lt {g : Cfg} {a : Byte} (ha : a.toNat < g.N_RX_BUF) : rxifBit g a = g.RXIF_BIT[a.toNat]? := if_pos ha

/-- Settles O26: the two frames of `exec_fRdrxb`, with the byte and the mask the selectors name. -/
theorem fRdrxbEffect : Obligations.FRdrxbEffect := by
  unfold Obligations.FRdrxbEffect
  intro a b c m s h hc ha hb hsa hsb hm
  have hbyte := rdrxbByte_eq_some ha hb hsa hsb
  have hmask : rxifBit s.cfg a = some m := (rxifBit_of_lt ha).trans hm
  obtain ⟨t, u, o, m', i0, i1, j0, j1, j2, j3, he, ho, hm', hk, hg, hsl, hsl', ht⟩ := exec_fRdrxb a b c h hc
  obtain rfl : m' = m := hm' m hmask
  exact ⟨t, u, o, i0, i1, j0, j1, j2, j3, he, ho _ hbyte, hk, hg, hsl (by simp [hbyte]), hsl' (by simp [hmask]), ht⟩

/-- Settles O27: the two frames of `exec_fRdrxb`, whatever the byte. -/
theorem fRdrxbOutOfRange : Obligations.FRdrxbOutOfRange := by
  unfold Obligations.FRdrxbOutOfRange
  intro a b c s h hc _
  obtain ⟨t, u, o, m, i0, i1, j0, j1, j2, j3, he, _, hm, _, _, _, _, ht⟩ := exec_fRdrxb a b c h hc
  exact ⟨t, o, m, i0, i1, j0, j1, j2, j3, he, fun ha k hk => hm k ((rxifBit_of_lt ha).trans hk), ht⟩

end Sys2Proof.Machine
end

section
/-! Every frame command at once (41_frames.md R158, R159): its frames as lists of bytes to send, and the run over them. -/

namespace Sys2Proof.Machine

/-- The frames of a frame command, byte by byte with the byte's role; a byte the spec does not state is `none` (log 5, log 23). -/
def framePrims (g : Cfg) : Instr → List (List (Option Byte × Bool))
  | .fReset _ _ _ => [[(some g.CMD_RESET, false)]]
  | .fRead a _ _ => [[(some g.CMD_READ, false), (some a, false), (some g.DUMMY, true)]]
  | .fWrite a b _ => [[(some g.CMD_WRITE, false), (some a, false), (some b, false)]]
  | .fBitmod a b c => [[(some g.CMD_BITMOD, false), (some a, false), (some b, false), (some c, false)]]
  | .fRts a _ _ => [[(rtsByte g a, false)]]
  | .fRdstat _ _ _ => [[(some g.CMD_RDSTAT, false), (some g.DUMMY, true)]]
  | .fRdrxb a b _ => [[(rdrxbByte g a b, false), (some g.DUMMY, true)],
      [(some g.CMD_BITMOD, false), (some g.ADDR_CANINTF, false), (rxifBit g a, false), (some 0x00, false)]]
  | .spiInit _ _ _ | .csLow _ _ _ | .csHigh _ _ _ | .xchg _ _ _ | .btTq _ _ _ | .btSeglen _ _ _ | .btPack1 _ _ _
  | .btPack2 _ _ _ | .btPack3 _ _ _ | .btNbt _ _ _ => []

/-- They are the script of the command just accepted. -/
theorem script_accept {i : Instr} (hi : isFrame (fopOf i) = true) (s : State) :
    script (accept (fopOf i) i.a i.b i.c s) = (framePrims s.cfg i).flatMap frame := by
  cases i <;> cases hi <;> rfl

/-- A frame command has one frame of at most four bytes, or two that are F_RDRXB's. -/
theorem framePrims_cases {i : Instr} (hi : isFrame (fopOf i) = true) (g : Cfg) :
    (∃ p ps, framePrims g i = [p :: ps] ∧ ps.length ≤ 3) ∨
    (∃ p ps q qs, framePrims g i = [p :: ps, q :: qs] ∧ ps.length + qs.length ≤ 4) := by
  cases i
  case fRdrxb => exact .inr ⟨_, _, _, _, rfl, by simp⟩
  case fReset | fRead | fWrite | fBitmod | fRts | fRdstat => exact .inl ⟨_, _, rfl, by simp⟩
  all_goals exact Bool.noConfusion hi

theorem framePrims_lengths {i : Instr} (hi : isFrame (fopOf i) = true) (g : Cfg) :
    (framePrims g i).map List.length = frameLengths i := by
  cases i <;> cases hi <;> rfl

/-- Where the spec states the bytes, they are those of the frames (30_encoding.md R100). -/
theorem framePrims_stated {g : Cfg} {i : Instr} {fs : List (List Byte)} (h : framesOf g i = some fs) :
    isFrame (fopOf i) = true ∧ (framePrims g i).map (List.map Prod.fst) = fs.map (List.map some) := by
  cases i
  case fReset | fRead | fWrite | fBitmod | fRdstat =>
    cases h
    exact ⟨rfl, rfl⟩
  case fRts a b c =>
    simp only [framesOf, Option.ite_none_right_eq_some] at h
    obtain ⟨⟨hn, h8⟩, h⟩ := h
    cases h
    simp only [framePrims, rtsByte_eq_some hn h8]
    exact ⟨rfl, rfl⟩
  case fRdrxb a b c =>
    simp only [framesOf, Option.ite_none_right_eq_some, ← Nat.shiftLeft_eq] at h
    obtain ⟨⟨ha, hb, hsa, hsb⟩, h⟩ := h
    obtain ⟨m, hm, rfl⟩ := Option.map_eq_some_iff.mp h
    simp only [framePrims, rdrxbByte_eq_some ha hb hsa hsb, rxifBit_of_lt ha, hm]
    exact ⟨rfl, rfl⟩
  all_goals cases h

/-- The slave's part of a run over frames, the first of them from where `s` stands, each later one after its own fall of
chip-select. -/
inductive SlaveFrames : State → State → List (List Byte) → List (List Byte) → Prop
  | last {s t : State} {os is : List Byte} (h : SlaveBytes s t os is) : SlaveFrames s t [os] [is]
  | more {s u t : State} {os is : List Byte} {outs ins : List (List Byte)} (slave : u.slave = s.slave)
      (cfg : u.cfg = s.cfg) (h : SlaveBytes s u os is) (rest : SlaveFrames (slaveCsFall u) t outs ins) :
      SlaveFrames s t (os :: outs) (is :: ins)

theorem SlaveFrames.bytes {s t : State} {os is : List Byte} (h : SlaveFrames s t [os] [is]) : SlaveBytes s t os is := by
  cases h with
  | last h => exact h
  | more _ _ _ rest => cases rest

/-- The events of frames one after the other. -/
def framesEvents (outs ins : List (List Byte)) : List Event := (outs.zip ins).flatMap fun p => frameEvents p.1 p.2

/-- What a frame command that completes leaves, with `outs` sent and `ins` received frame by frame. -/
structure FramesDone (i : Instr) (s t : State) (outs ins : List (List Byte)) : Prop where
  lengths : ins.map List.length = outs.map List.length
  ready : Ready t
  deselected : t.csN = some true
  cfg : t.cfg = s.cfg
  slave : t.slave = s.slave
  trace : t.trace = s.trace ++ if s.csN = some true then framesEvents outs ins else (framesEvents outs ins).tail
  data : ins.flatten.getLast? = some t.data
  response : ∀ k, resultByte i = some k → ∃ is r, ins.head? = some is ∧ is[k]? = some r ∧ t.rsp = okWord (zextData r)

/-- A command with a result byte takes the reply of that place in its first frame. -/
theorem resultOf_resultByte {g : Cfg} {i : Instr} {k : Nat} (hk : resultByte i = some k)
    {ps : List (Option Byte × Bool)} {rest : List (List (Option Byte × Bool))} (hps : framePrims g i = ps :: rest)
    {ins : List Byte} (hlen : ps.length = ins.length) (w : RespWord) :
    hasResult (fopOf i) = true ∧ ∃ r, ins[k]? = some r ∧ resultOf ps ins w = okWord (zextData r) := by
  cases i
  case fRead a b c =>
    cases hk
    cases hps
    match ins, hlen with
    | [_, _, r], _ => exact ⟨rfl, r, rfl, rfl⟩
  case fRdstat a b c =>
    cases hk
    cases hps
    match ins, hlen with
    | [_, r], _ => exact ⟨rfl, r, rfl, rfl⟩
  case fRdrxb a b c =>
    cases hk
    cases hps
    match ins, hlen with
    | [_, r], _ => exact ⟨rfl, r, rfl, rfl⟩
  all_goals cases hk

/-- No byte received in a second frame is a result (R157). -/
theorem resultOf_second {g : Cfg} {i : Instr} {ps qs : List (Option Byte × Bool)} (hps : framePrims g i = [ps, qs])
    {ins : List Byte} (hlen : qs.length = ins.length) (w : RespWord) : resultOf qs ins w = w := by
  cases i
  case fRdrxb a b c =>
    cases hps
    match ins, hlen with
    | [_, _, _, _], _ => rfl
  all_goals cases hps

/-- The frame command in a ready block with the lines driven. -/
theorem exec_frames {i : Instr} {s : State} (hi : isFrame (fopOf i) = true) (h : Ready s) (hc : s.csN ≠ none) :
    ∃ t outs ins, exec i s = .next t ∧ List.Forall₂ Sends (framePrims s.cfg i) outs ∧ FramesDone i s t outs ins ∧
      ((∀ ps ∈ framePrims s.cfg i, ∀ q ∈ ps, q.1 ≠ none) →
        SlaveFrames (if s.csN = some true then slaveCsFall s else s) t outs ins) := by
  have hscript := script_accept hi s
  obtain ⟨p, ps, hps, hn⟩ | ⟨p, ps, q, qs, hps, hn⟩ := framePrims_cases hi s.cfg
  · rw [hps] at hscript ⊢
    obtain ⟨t, outs, ins, oLast, iLast, he, hs, hlen, hsl, ho, hl, ht⟩ :=
      exec_oneFrame i p ps hi hn h hc (by simpa using hscript)
    have hdone : FramesDone i s t [outs] [ins] := by
      refine ⟨by simp [hlen], ?_, ?_, ?_, ?_, ?_, ?_, fun k hk => ?_⟩
      case refine_7 =>
        obtain ⟨hres, r, hr, hw⟩ := resultOf_resultByte hk hps (hs.length.trans hlen.symm) s.rsp
        refine ⟨ins, r, rfl, hr, ?_⟩
        rw [ht, hw, okWord_data, if_pos hres]
      all_goals rw [ht]
      · exact h
      · by_cases hct : s.csN = some true <;> simp [hct, framesEvents, frameEvents]
      · simpa using hl
    exact ⟨t, [outs], [ins], he, .cons hs .nil, hdone, fun hg => .last (hsl (hg _ (by simp)))⟩
  · rw [hps] at hscript ⊢
    obtain ⟨t, u, outs, ins, outs', ins', oLast, iLast, he, hs, hs', hlen, hlen', hsl, hsl', hk, hg, ho, hl, ht⟩ :=
      exec_twoFrames i p q ps qs hi hn h hc (by simpa using hscript)
    have hdone : FramesDone i s t [outs, outs'] [ins, ins'] := by
      refine ⟨by simp [hlen, hlen'], ?_, ?_, ?_, ?_, ?_, ?_, fun k hk => ?_⟩
      case refine_7 =>
        obtain ⟨hres, r, hr, hw⟩ := resultOf_resultByte hk hps (hs.length.trans hlen.symm) s.rsp
        refine ⟨ins, r, rfl, hr, ?_⟩
        rw [ht, hw, resultOf_second hps (hs'.length.trans hlen'.symm), okWord_data, if_pos hres]
      all_goals rw [ht]
      · exact h
      · by_cases hct : s.csN = some true <;> simp [hct, framesEvents, frameEvents]
      · have hne : ins' ≠ [] := by
          rintro rfl
          cases hl
        simpa [List.getLast?_append_of_ne_nil _ hne] using hl
    refine ⟨t, [outs, outs'], [ins, ins'], he, .cons hs (.cons hs' .nil), hdone, fun hgiven => ?_⟩
    have hgu : u.slave = (if s.csN = some true then slaveCsFall s else s).slave ∧
        u.cfg = (if s.csN = some true then slaveCsFall s else s).cfg := by
      rw [slaveCsFall_eq]
      split <;> exact ⟨hk, hg⟩
    exact .more hgu.1 hgu.2 (hsl (hgiven _ (by simp))) (.last (hsl' (hgiven _ (by simp))))

theorem forall₂_sends_lengths {pss : List (List (Option Byte × Bool))} {outs : List (List Byte)}
    (h : List.Forall₂ Sends pss outs) : outs.map List.length = pss.map List.length := by
  induction h with
  | nil => rfl
  | cons hs _ ih => rw [List.map_cons, List.map_cons, ih, hs.length]

theorem forall₂_sends_eq {pss : List (List (Option Byte × Bool))} {outs fs : List (List Byte)}
    (h : List.Forall₂ Sends pss outs) (hb : pss.map (List.map Prod.fst) = fs.map (List.map some)) :
    outs = fs ∧ ∀ ps ∈ pss, ∀ q ∈ ps, q.1 ≠ none := by
  induction h generalizing fs with
  | nil => exact ⟨by simpa using hb, nofun⟩
  | cons hs _ ih =>
    match fs, hb with
    | f :: fs, hb =>
      obtain ⟨hhead, htail⟩ := List.cons.inj hb
      obtain ⟨rfl, hgiven⟩ := hs.given hhead
      obtain ⟨rfl, hrest⟩ := ih htail
      exact ⟨rfl, List.forall_mem_cons.mpr ⟨hgiven, hrest⟩⟩

/-- The same where the spec states the bytes: these are sent, and the slave answers them. -/
theorem exec_framesOf {i : Instr} {fs : List (List Byte)} {s : State} (hfs : framesOf s.cfg i = some fs) (h : Ready s)
    (hc : s.csN ≠ none) : ∃ t ins, exec i s = .next t ∧ FramesDone i s t fs ins ∧
      SlaveFrames (if s.csN = some true then slaveCsFall s else s) t fs ins := by
  obtain ⟨hi, hbytes⟩ := framePrims_stated hfs
  obtain ⟨t, outs, ins, he, hs, hdone, hsl⟩ := exec_frames hi h hc
  obtain ⟨rfl, hgiven⟩ := forall₂_sends_eq hs hbytes
  exact ⟨t, ins, he, hdone, hsl hgiven⟩

/-- Settles O28: the run over the frames (`exec_frames`), whose lengths are those of R100 (`framePrims_lengths`). -/
theorem frameAtomicity : Obligations.FrameAtomicity := by
  unfold Obligations.FrameAtomicity
  intro i s hi h hc
  obtain ⟨t, outs, ins, he, hs, hdone, _⟩ := exec_frames hi h (by simp [hc])
  have hlen := (forall₂_sends_lengths hs).trans (framePrims_lengths hi s.cfg)
  exact ⟨t, outs, ins, he, hdone.ready.1.1, hdone.deselected, hlen, hdone.lengths.trans hlen,
    hdone.trace.trans (by rw [if_pos hc]; rfl)⟩

/-- Settles O29: the same run with the frame already open, so that the first CsFall is not there. -/
theorem frameInsideOpenFrame : Obligations.FrameInsideOpenFrame := by
  unfold Obligations.FrameInsideOpenFrame
  intro i s hi h hc
  have hlow : s.csN ≠ some true := by simp [hc]
  obtain ⟨t, outs, ins, he, hs, hdone, hsl⟩ := exec_frames hi h (by simp [hc])
  rw [if_neg hlow] at hsl
  have hlen := (forall₂_sends_lengths hs).trans (framePrims_lengths hi s.cfg)
  refine ⟨t, outs, ins, he, hdone.ready.1.1, hdone.deselected, hlen, hdone.lengths.trans hlen,
    hdone.trace.trans (by rw [if_neg hlow]; rfl), fun fs hfs => ?_⟩
  obtain ⟨rfl, hgiven⟩ := forall₂_sends_eq hs (framePrims_stated hfs).2
  refine ⟨rfl, ?_⟩
  rintro os is rfl rfl
  exact (hsl hgiven).bytes

/-- What a frame puts on the wire, the values sampled apart, is given by the bytes sent (41_frames.md R158). -/
theorem sentView_exchangeEvents {outs ins : List Byte} (h : ins.length = outs.length) :
    (exchangeEvents outs ins).map sentView = outs.flatMap fun o => (byteEvents o 0).map sentView := by
  induction outs generalizing ins with
  | nil => rfl
  | cons o outs ih =>
    match ins, h with
    | i :: ins, h =>
      have htail := ih (Nat.succ.inj h)
      have hhead : (byteEvents o i).map sentView = (byteEvents o 0).map sentView := rfl
      simp only [exchangeEvents, List.zip_cons_cons, List.flatMap_cons, List.map_append] at htail ⊢
      rw [hhead, htail]

theorem sentView_framesEvents {outs ins : List (List Byte)} (h : ins.map List.length = outs.map List.length) :
    (framesEvents outs ins).map sentView = outs.flatMap fun os =>
      .csFall :: ((os.flatMap fun o => (byteEvents o 0).map sentView) ++ [.csRise]) := by
  induction outs generalizing ins with
  | nil => rfl
  | cons os outs ih =>
    match ins, h with
    | is :: ins, h =>
      obtain ⟨hhead, htail⟩ := List.cons.inj h
      have htail := ih htail
      simp only [framesEvents, frameEvents, List.zip_cons_cons, List.flatMap_cons, List.map_append, List.map_cons,
        sentView_exchangeEvents hhead] at htail ⊢
      rw [htail]
      rfl

/-- Settles O31: both send the stated bytes (`exec_framesOf`), and these alone give the events sent
(`sentView_framesEvents`). -/
theorem frameWireIgnoresSlave : Obligations.FrameWireIgnoresSlave := by
  unfold Obligations.FrameWireIgnoresSlave
  intro i fs s s' hfs hg h h' hc hc'
  obtain ⟨t, ins, he, hdone, _⟩ := exec_framesOf hfs h (by simp [hc])
  obtain ⟨t', ins', he', hdone', _⟩ := exec_framesOf (hg ▸ hfs) h' (by simp [hc'])
  refine ⟨t, t', _, _, he, he', hdone.trace, hdone'.trace, ?_⟩
  rw [if_pos hc, if_pos hc', sentView_framesEvents hdone.lengths, sentView_framesEvents hdone'.lengths]

end Sys2Proof.Machine
end

section
/-! The primitives of a frame command issued one by one (41_frames.md R162), and why this is the same: over the same bytes the
slave gives the same replies. -/

namespace Sys2Proof.Machine

theorem execAll_cons {i : Instr} {s t : State} (h : exec i s = .next t) (is : List Instr) :
    execAll (i :: is) s = execAll is t := by simp only [execAll, h]

theorem responses_cons {i : Instr} {s t : State} (h : exec i s = .next t) (is : List Instr) :
    responses (i :: is) s = t.rsp :: responses is t := by simp only [responses, h]

theorem execAll_append {is : List Instr} {s t : State} (h : execAll is s = .next t) (js : List Instr) :
    execAll (is ++ js) s = execAll js t ∧ responses (is ++ js) s = responses is s ++ responses js t := by
  induction is generalizing s with
  | nil =>
    cases h
    exact ⟨rfl, rfl⟩
  | cons i is ih =>
    obtain ⟨u, hu⟩ : ∃ u, exec i s = .next u := ⟨_, exec_eq_issue i s⟩
    rw [execAll_cons hu] at h
    obtain ⟨h1, h2⟩ := ih h
    rw [List.cons_append, execAll_cons hu, responses_cons hu, responses_cons hu, h1, h2]
    exact ⟨rfl, rfl⟩

/-- The two states agree on all the slave's part depends on. -/
structure SameSlave (s t : State) : Prop where
  slave : s.slave = t.slave
  cfg : s.cfg = t.cfg
  answers : s.answers = t.answers
  draws : s.draws = t.draws
  ref : s.ref = t.ref

theorem SameSlave.symm {s t : State} (h : SameSlave s t) : SameSlave t s :=
  ⟨h.slave.symm, h.cfg.symm, h.answers.symm, h.draws.symm, h.ref.symm⟩

theorem SameSlave.csFall {s t : State} (h : SameSlave s t) : SameSlave (slaveCsFall s) (slaveCsFall t) := by
  rw [slaveCsFall_eq s, slaveCsFall_eq t]
  refine ⟨h.slave, h.cfg, h.answers, h.draws, ?_⟩
  show (slaveCsFall s).ref = (slaveCsFall t).ref
  rw [slaveCsFall_ref, slaveCsFall_ref, h.slave, h.ref]

theorem SlaveBytes.congr {s u t : State} {outs ins : List Byte} (h : SlaveBytes u t outs ins) (hs : SameSlave u s) :
    SlaveBytes s t outs ins :=
  SlaveBytes_of_eq h hs.slave hs.cfg hs.answers hs.draws hs.ref rfl rfl rfl

theorem SlaveBytes.nil (s : State) : SlaveBytes s s [] [] := by
  unfold SlaveBytes
  split
  · exact ⟨rfl, rfl⟩
  · exact ⟨rfl, rfl, rfl⟩
  · exact ⟨rfl, rfl, rfl⟩

/-- The slave's part of one byte more. -/
theorem SlaveBytes.cons {s u t : State} {o i : Byte} {outs ins : List Byte} (h : SlaveBytes s u [o] [i])
    (k : SlaveBytes u t outs ins) (hk : u.slave = s.slave) (hg : u.cfg = s.cfg) :
    SlaveBytes s t (o :: outs) (i :: ins) := by
  unfold SlaveBytes at h k ⊢
  rw [hk, hg] at k
  split <;> rename_i hs <;> rw [hs] at h k
  · obtain ⟨e1, e2⟩ := h
    obtain ⟨f1, f2⟩ := k
    simp only [List.flatMap_cons, List.flatMap_nil, List.append_nil, List.length_cons, List.length_nil] at e1
    refine ⟨?_, f2.trans e2⟩
    rw [List.length_cons, show 8 * (outs.length + 1) = 8 * (0 + 1) + 8 * outs.length by omega, oracleSamples_add, ← e1,
      ← f1, List.flatMap_cons]
  all_goals
    obtain ⟨e1, e2, e3⟩ := h
    obtain ⟨f1, f2, f3⟩ := k
    obtain ⟨hi, hr⟩ := Prod.mk.inj e1
    refine ⟨?_, f2.trans e2, f3.trans e3⟩
    simp only [refBytes, List.cons.injEq, and_true] at hi hr ⊢
    rw [← hr, ← f1, hi]

/-- Bytes are their bits, one after the other. -/
theorem flatMap_byteBits_inj {is js : List Byte} (h : is.flatMap byteBits = js.flatMap byteBits) : is = js := by
  induction is generalizing js with
  | nil =>
    cases js with
    | nil => rfl
    | cons j js => cases h
  | cons i is ih =>
    cases js with
    | nil => cases h
    | cons j js =>
      rw [List.flatMap_cons, List.flatMap_cons] at h
      obtain ⟨hhead, htail⟩ := List.append_inj h rfl
      rw [byte_ext hhead, ih htail]

/-- Over the same bytes the slave's part is one. -/
theorem SlaveBytes.unique {s t u : State} {outs ins ins' : List Byte} (h : SlaveBytes s t outs ins)
    (k : SlaveBytes s u outs ins') (hk : t.slave = u.slave) (hg : t.cfg = u.cfg) : ins = ins' ∧ SameSlave t u := by
  unfold SlaveBytes at h k
  split at h <;> rename_i hs <;> rw [hs] at k
  · obtain ⟨e1, e2⟩ := h
    obtain ⟨f1, f2⟩ := k
    obtain ⟨hbits, hrest⟩ := Prod.mk.inj (e1.trans f1.symm)
    obtain ⟨ha, hd⟩ := Prod.mk.inj hrest
    exact ⟨flatMap_byteBits_inj hbits, hk, hg, ha, hd, e2.trans f2.symm⟩
  all_goals
    obtain ⟨e1, e2, e3⟩ := h
    obtain ⟨f1, f2, f3⟩ := k
    obtain ⟨hi, hr⟩ := Prod.mk.inj (e1.trans f1.symm)
    exact ⟨hi, hk, hg, e2.trans f2.symm, e3.trans f3.symm, hr⟩

theorem SlaveFrames.congr {s u t : State} {outs ins : List (List Byte)} (h : SlaveFrames u t outs ins)
    (hs : SameSlave u s) : SlaveFrames s t outs ins := by
  cases h with
  | last h => exact .last (h.congr hs)
  | more hk hg h rest => exact .more (hk.trans hs.slave) (hg.trans hs.cfg) (h.congr hs) rest

/-- Over the same frames the slave's part is one. -/
theorem SlaveFrames.unique {s t u : State} {outs ins ins' : List (List Byte)} (h : SlaveFrames s t outs ins)
    (k : SlaveFrames s u outs ins') (hk : t.slave = u.slave) (hg : t.cfg = u.cfg) : ins = ins' ∧ SameSlave t u := by
  induction h generalizing ins' with
  | last h =>
    cases k with
    | last k =>
      obtain ⟨rfl, hsame⟩ := h.unique k hk hg
      exact ⟨rfl, hsame⟩
    | more _ _ _ rest => cases rest
  | more wk wg h rest ih =>
    cases k with
    | last _ => cases rest
    | more xk xg k krest =>
      obtain ⟨rfl, hsame⟩ := h.unique k (wk.trans xk.symm) (wg.trans xg.symm)
      obtain ⟨rfl, hend⟩ := ih (krest.congr hsame.csFall.symm) hk hg
      exact ⟨rfl, hend⟩

/-- CS_LOW as a command in a ready block with chip-select high. -/
theorem exec_csLow_ready {s : State} (h : Ready s) (hc : s.csN = some true) :
    ∃ t, exec (.csLow 0 0 0) s = .next t ∧ Ready t ∧ t.csN = some false ∧ t.trace = s.trace ++ [.csFall] ∧
      t.data = s.data ∧ SameSlave (slaveCsFall s) t := by
  have hexec := exec_csLow 0 0 0 h.1.1 h.1.2.1
  have hnote := noteBreach_eq (accept .csLow 0 0 0 s)
  generalize noteBreach (accept .csLow 0 0 0 s) = u at hexec hnote
  have hu : u.csN = some true := by rw [hnote]; exact hc
  refine ⟨_, hexec, ?_⟩
  rw [selectLow_eq (by simp [hu])]
  simp only [if_pos hu]
  refine ⟨?_, rfl, ?_, ?_, ?_⟩
  · rw [hnote]
    exact ⟨⟨rfl, h.1.2⟩, h.2⟩
  · rw [hnote]
    rfl
  · rw [hnote]
    rfl
  · rw [slaveCsFall_eq s, slaveCsFall_ref, slaveCsFall_ref, hnote]
    exact ⟨rfl, rfl, rfl, rfl, rfl⟩

/-- CS_HIGH as a command in a ready block with chip-select low. -/
theorem exec_csHigh_ready {s : State} (h : Ready s) (hc : s.csN = some false) :
    ∃ t, exec (.csHigh 0 0 0) s = .next t ∧ Ready t ∧ t.csN = some true ∧ t.trace = s.trace ++ [.csRise] ∧
      t.data = s.data ∧ SameSlave s t := by
  have hexec := exec_csHigh 0 0 0 h.1.1 h.1.2.1
  rw [selectHigh_frame, noteBreach_eq] at hexec
  refine ⟨_, hexec, ⟨⟨rfl, h.1.2⟩, h.2⟩, if_pos hc, if_pos hc, rfl, rfl, rfl, rfl, rfl, rfl⟩

/-- The commands XCHG one by one, inside an open frame. -/
theorem execAll_xchgs (bs : List Byte) {s : State} (h : Ready s) (hc : s.csN = some false) :
    ∃ t ins, execAll (bs.map fun o => Instr.xchg o 0 0) s = .next t ∧ Ready t ∧ t.csN = some false ∧
      t.slave = s.slave ∧ t.cfg = s.cfg ∧ ins.length = bs.length ∧ SlaveBytes s t bs ins ∧
      t.trace = s.trace ++ exchangeEvents bs ins ∧ t.data = ins.getLast?.getD s.data ∧
      responses (bs.map fun o => Instr.xchg o 0 0) s = ins.map fun i => okWord (zextData i) := by
  induction bs generalizing s with
  | nil => exact ⟨s, [], rfl, h, hc, rfl, rfl, rfl, .nil s, (List.append_nil _).symm, rfl, rfl⟩
  | cons o bs ih =>
    obtain ⟨u, i, he, hans, hu⟩ := exec_xchg o 0 0 h
    have huready : Ready u := by rw [hu]; exact h
    obtain ⟨t, ins, hall, ht, htc, hk, hg, hlen, hsl, htr, hd, hr⟩ := ih huready (by rw [hu]; exact hc)
    have huk : u.slave = s.slave := by rw [hu]
    have hug : u.cfg = s.cfg := by rw [hu]
    have hutr : u.trace = s.trace ++ byteEvents o i := by rw [hu]
    have hud : u.data = i := by rw [hu]
    have hur : u.rsp = okWord (zextData i) := by rw [hu]
    refine ⟨t, i :: ins, (execAll_cons he _).trans hall, ht, htc, hk.trans huk, hg.trans hug, by simp [hlen],
      (hans.slaveBytes hc).cons hsl huk hug, ?_, ?_, ?_⟩
    · rw [htr, hutr]
      simp [exchangeEvents]
    · rw [hd, hud]
      cases ins <;> simp [List.getLast?_cons]
    · rw [List.map_cons, responses_cons he, hr, hur]
      rfl

/-- What the primitives of frames issued one by one leave, with `outs` sent and `ins` received frame by frame. -/
structure RawDone (s t : State) (outs ins : List (List Byte)) : Prop where
  ready : Ready t
  deselected : t.csN = some true
  slave : t.slave = s.slave
  cfg : t.cfg = s.cfg
  lengths : ins.map List.length = outs.map List.length
  answered : SlaveFrames (slaveCsFall s) t outs ins
  trace : t.trace = s.trace ++ framesEvents outs ins
  data : t.data = ins.flatten.getLast?.getD s.data
  results : ∀ is k r, ins.head? = some is → is[k]? = some r →
    (responses (rawFrames outs) s)[k + 1]? = some (okWord (zextData r))

/-- One frame by its primitives. -/
theorem execAll_rawFrame (bs : List Byte) {s : State} (h : Ready s) (hc : s.csN = some true) :
    ∃ t is, execAll (rawFrame bs) s = .next t ∧ RawDone s t [bs] [is] := by
  obtain ⟨u, heu, hu, huc, hutr, hud, husame⟩ := exec_csLow_ready h hc
  obtain ⟨v, ins, hev, hv, hvc, hvk, hvg, hlen, hsl, hvtr, hvd, hvr⟩ := execAll_xchgs bs hu huc
  obtain ⟨t, het, ht, htc, httr, htd, htsame⟩ := exec_csHigh_ready hv hvc
  obtain ⟨hall, hresp⟩ := execAll_append hev [.csHigh 0 0 0]
  have hfall : (slaveCsFall s).slave = s.slave ∧ (slaveCsFall s).cfg = s.cfg := by
    rw [slaveCsFall_eq]
    exact ⟨rfl, rfl⟩
  refine ⟨t, ins, ?_, ht, htc, ?_, ?_, by simp [hlen], ?_, ?_, ?_, ?_⟩
  · rw [rawFrame, execAll_cons heu, hall, execAll_cons het]
    rfl
  · rw [← htsame.slave, hvk, ← husame.slave, hfall.1]
  · rw [← htsame.cfg, hvg, ← husame.cfg, hfall.2]
  · refine .last ?_
    exact SlaveBytes_of_eq hsl husame.slave.symm husame.cfg.symm husame.answers.symm husame.draws.symm husame.ref.symm
      htsame.answers.symm htsame.draws.symm htsame.ref.symm
  · rw [httr, hvtr, hutr]
    simp [framesEvents, frameEvents]
  · rw [htd, hvd, hud]
    simp
  · intro is k r his hk
    cases his
    have hlt : k < ins.length := (List.getElem?_eq_some_iff.mp hk).1
    simp only [rawFrames, List.flatMap_cons, List.flatMap_nil, List.append_nil]
    rw [rawFrame, responses_cons heu, List.getElem?_cons_succ, hresp, hvr,
      List.getElem?_append_left (by simpa using hlt), List.getElem?_map, hk]
    rfl

/-- Frames by their primitives, one after the other. -/
theorem execAll_rawFrames {fs : List (List Byte)} (hne : fs ≠ []) {s : State} (h : Ready s) (hc : s.csN = some true) :
    ∃ t ins, execAll (rawFrames fs) s = .next t ∧ RawDone s t fs ins := by
  induction fs generalizing s with
  | nil => exact absurd rfl hne
  | cons bs fs ih =>
    obtain ⟨u, is, heu, hu⟩ := execAll_rawFrame bs h hc
    obtain ⟨hall, hresp⟩ := execAll_append heu (rawFrames fs)
    have hcons : rawFrames (bs :: fs) = rawFrame bs ++ rawFrames fs := rfl
    cases fs with
    | nil => exact ⟨u, [is], hall, hu⟩
    | cons bs' fs =>
      obtain ⟨t, ins, het, ht⟩ := ih (by simp) hu.ready hu.deselected
      match ins, ht with
      | [], ht => exact absurd ht.lengths (by simp)
      | is' :: ins, ht =>
        have hfall : u.slave = (slaveCsFall s).slave ∧ u.cfg = (slaveCsFall s).cfg := by
          rw [slaveCsFall_eq]
          exact ⟨hu.slave, hu.cfg⟩
        refine ⟨t, is :: is' :: ins, by rw [hcons, hall, het], ht.ready, ht.deselected, ht.slave.trans hu.slave,
          ht.cfg.trans hu.cfg, ?_, .more hfall.1 hfall.2 hu.answered.bytes ht.answered, ?_, ?_, ?_⟩
        · have h1 := hu.lengths
          have h2 := ht.lengths
          simp only [List.map_cons, List.map_nil, List.cons.injEq, and_true] at h1 h2 ⊢
          exact ⟨h1, h2⟩
        · rw [ht.trace, hu.trace]
          simp [framesEvents]
        · rw [ht.data, hu.data, List.flatten_cons, List.getLast?_append]
          cases (is' :: ins).flatten.getLast? <;> simp
        · intro js k r hjs hk
          cases hjs
          have hfirst := hu.results is k r rfl hk
          simp only [rawFrames, List.flatMap_cons, List.flatMap_nil, List.append_nil] at hfirst
          rw [hcons, hresp, List.getElem?_append_left (List.getElem?_eq_some_iff.mp hfirst).1, hfirst]

/-- Settles O30: the command (`exec_framesOf`) and its primitives (`execAll_rawFrames`) run over the same frames, over which
the slave's part is one (`SlaveFrames.unique`). -/
theorem rawFrameEquivalent : Obligations.RawFrameEquivalent := by
  unfold Obligations.RawFrameEquivalent
  intro i fs s hfs h hc
  obtain ⟨t, ins, het, ht, htf⟩ := exec_framesOf hfs h (by simp [hc])
  rw [if_pos hc] at htf
  have hne : fs ≠ [] := by
    rintro rfl
    cases htf
  obtain ⟨u, ins', heu, hu⟩ := execAll_rawFrames hne h hc
  obtain ⟨rfl, hsame⟩ := htf.unique hu.answered (ht.slave.trans hu.slave.symm) (ht.cfg.trans hu.cfg.symm)
  refine ⟨t, u, het, heu, ?_, ?_, hsame.ref, hsame.answers, hsame.draws, fun k hk => ?_⟩
  · rw [ht.trace, hu.trace, if_pos hc]
  · rw [hu.data, ht.data]
    rfl
  · obtain ⟨is, r, his, hr, hrsp⟩ := ht.response k hk
    rw [hu.results is k r his hr, hrsp]

end Sys2Proof.Machine
end

section
/-! An oracle tied to a slave (20_memory.md R74): its samples are that slave's replies over a session of frames, so that every
premise on the slave gives the response the source promises. -/

namespace Sys2Proof.Machine

section

variable {σ : Type} {v : SlaveView σ}

theorem SlaveView.bytes_length (st : σ) (outs : List Byte) : (v.bytes st outs).1.length = outs.length := by
  induction outs generalizing st with
  | nil => rfl
  | cons o outs ih => simp [SlaveView.bytes, ih]

theorem SlaveView.frame_length (st : σ) (outs : List Byte) : (v.frame st outs).1.length = outs.length :=
  v.bytes_length (v.fall st) outs

/-- The slave's state after a session. -/
def SlaveView.sessionEnd (v : SlaveView σ) (st : σ) : List (Nat × List Byte) → σ
  | [] => st
  | (n, outs) :: fs => v.sessionEnd (v.frame (v.waits n st) outs).2 fs

theorem SlaveView.session_append (st : σ) (fs gs : List (Nat × List Byte)) :
    v.session st (fs ++ gs) = v.session st fs ++ v.session (v.sessionEnd st fs) gs := by
  induction fs generalizing st with
  | nil => rfl
  | cons f fs ih => simp [SlaveView.session, SlaveView.sessionEnd, ih]

/-- An oracle tied over two sessions is tied over the first, with the second among the answers left. -/
theorem OracleIs.append {st : σ} {fs gs : List (Nat × List Byte)} {rest : List Bool} {s : State}
    (h : OracleIs v st (fs ++ gs) rest s) :
    OracleIs v st fs ((v.session (v.sessionEnd st fs) gs).flatten.flatMap byteBits ++ rest) s := by
  refine ⟨h.1, h.2.trans ?_⟩
  simp [SlaveView.session_append]

theorem length_flatMap_byteBits (bs : List Byte) : (bs.flatMap byteBits).length = 8 * bs.length := by
  induction bs with
  | nil => rfl
  | cons b bs ih =>
    rw [List.flatMap_cons, List.length_append, ih, byteBits_length, List.length_cons]
    omega

/-- An oracle whose answers begin with the bits of as many replies gives these replies. -/
theorem SlaveBytes.given {s t : State} {outs ins replies : List Byte} {rest : List Bool} (h : SlaveBytes s t outs ins)
    (hk : s.slave = .oracle) (ha : s.answers = replies.flatMap byteBits ++ rest) (hlen : replies.length = outs.length) :
    ins = replies ∧ t.answers = rest := by
  unfold SlaveBytes at h
  rw [hk] at h
  obtain ⟨hsam, _⟩ := h
  rw [ha, ← hlen, ← length_flatMap_byteBits, oracleSamples_given] at hsam
  obtain ⟨hbits, hrest⟩ := Prod.mk.inj hsam
  exact ⟨flatMap_byteBits_inj hbits, (Prod.mk.inj hrest).1⟩

theorem slaveCsFall_oracle {s : State} (hk : s.slave = .oracle) : slaveCsFall s = s := by
  unfold slaveCsFall
  rw [hk]

/-- Over whole frames it gives the replies of the session. -/
theorem SlaveFrames.session {s t : State} {outs ins : List (List Byte)} (h : SlaveFrames s t outs ins) {st : σ}
    {pauses : List Nat} {rest : List Bool} (hp : pauses.length = outs.length)
    (ho : OracleIs v st (pauses.zip outs) rest s) : ins = v.session st (pauses.zip outs) ∧ t.answers = rest := by
  induction h generalizing st pauses with
  | @last s t os is h =>
    match pauses, hp with
    | [n], _ =>
      have ha : s.answers = (v.frame (v.waits n st) os).1.flatMap byteBits ++ rest := by
        rw [ho.2]
        simp [SlaveView.session]
      obtain ⟨rfl, hrest⟩ := h.given ho.1 ha (v.frame_length _ _)
      exact ⟨rfl, hrest⟩
  | @more s u t os is outs ins hk hg h _ ih =>
    match pauses, hp with
    | n :: pauses, hp =>
      have ha : s.answers = (v.frame (v.waits n st) os).1.flatMap byteBits ++
          ((v.session (v.frame (v.waits n st) os).2 (pauses.zip outs)).flatten.flatMap byteBits ++ rest) := by
        rw [ho.2]
        simp [SlaveView.session]
      obtain ⟨rfl, hleft⟩ := h.given ho.1 ha (v.frame_length _ _)
      have huk : u.slave = .oracle := hk.trans ho.1
      rw [slaveCsFall_oracle huk] at ih
      obtain ⟨rfl, hrest⟩ := ih (Nat.succ.inj hp) ⟨huk, hleft⟩
      exact ⟨rfl, hrest⟩

/-- A frame command over an oracle tied to a slave carries the slave's replies. -/
theorem exec_answered {i : Instr} {fs : List (List Byte)} {pauses : List Nat} {st : σ} {rest : List Bool} {s : State}
    (hfs : framesOf s.cfg i = some fs) (hp : pauses.length = fs.length) (h : Ready s) (hc : s.csN = some true)
    (ho : OracleIs v st (pauses.zip fs) rest s) :
    ∃ t, exec i s = .next t ∧ FramesDone i s t fs (v.session st (pauses.zip fs)) ∧ t.answers = rest := by
  obtain ⟨t, ins, he, ht, hsl⟩ := exec_framesOf hfs h (by simp [hc])
  rw [if_pos hc, slaveCsFall_oracle ho.1] at hsl
  obtain ⟨rfl, hrest⟩ := hsl.session hp ho
  exact ⟨t, he, ht, hrest⟩

/-- A single read of the register `a`. -/
theorem exec_read {n : Nat} {st : σ} {a : Byte} (b c : Byte) {rest : List Bool} {s : State} (hread : SlaveRead s.cfg v)
    (hv : v.valid (v.waits n st)) (h : Ready s) (hc : s.csN = some true)
    (ho : OracleIs v st [(n, [s.cfg.CMD_READ, a, s.cfg.DUMMY])] rest s) :
    ∃ t, exec (.fRead a b c) s = .next t ∧ t.rsp = okWord (zextData (v.content (v.waits n st) a)) := by
  obtain ⟨t, het, ht, _⟩ := exec_answered (i := .fRead a b c) (pauses := [n]) rfl rfl h hc ho
  obtain ⟨is, r, his, hr, hrsp⟩ := ht.response 2 rfl
  cases his
  cases hr.symm.trans (hread _ a s.cfg.DUMMY [] hv)
  exact ⟨t, het, hrsp⟩

/-- A single read of the status (R74 SlaveStatus). -/
theorem exec_readStatus {n : Nat} {st : σ} (a b c : Byte) {rest : List Bool} {s : State} (hstatus : SlaveStatus s.cfg v)
    (hv : v.valid (v.waits n st)) (h : Ready s) (hc : s.csN = some true)
    (ho : OracleIs v st [(n, [s.cfg.CMD_RDSTAT, s.cfg.DUMMY])] rest s) :
    ∃ t, exec (.fRdstat a b c) s = .next t ∧ t.rsp = okWord (zextData (v.status (v.waits n st))) := by
  obtain ⟨t, het, ht, _⟩ := exec_answered (i := .fRdstat a b c) (pauses := [n]) rfl rfl h hc ho
  obtain ⟨is, r, his, hr, hrsp⟩ := ht.response 1 rfl
  cases his
  cases hr.symm.trans (hstatus _ s.cfg.DUMMY [] hv)
  exact ⟨t, het, hrsp⟩

/-- A frame command and then a read of the register `a`, after `m` moments, over an oracle tied to a slave that meets
SlaveRead: the response is the content of `a` in the state the slave then has. -/
theorem execAll_then_read {i : Instr} {fs : List (List Byte)} {pauses : List Nat} {m : Nat} {st : σ} {a : Byte}
    {rest : List Bool} {s : State} (hread : SlaveRead s.cfg v) (hfs : framesOf s.cfg i = some fs)
    (hp : pauses.length = fs.length) (h : Ready s) (hc : s.csN = some true)
    (hv : v.valid (v.waits m (v.sessionEnd st (pauses.zip fs))))
    (ho : OracleIs v st (pauses.zip fs ++ [(m, [s.cfg.CMD_READ, a, s.cfg.DUMMY])]) rest s) :
    ∃ t, execAll [i, .fRead a 0 0] s = .next t ∧
      t.rsp = okWord (zextData (v.content (v.waits m (v.sessionEnd st (pauses.zip fs))) a)) := by
  obtain ⟨u, heu, hu, hleft⟩ := exec_answered hfs hp h hc ho.append
  have huo : OracleIs v (v.sessionEnd st (pauses.zip fs)) [(m, [s.cfg.CMD_READ, a, s.cfg.DUMMY])] rest u :=
    ⟨hu.slave.trans ho.1, hleft⟩
  rw [← hu.cfg] at hread huo
  obtain ⟨t, het, hrsp⟩ := exec_read 0 0 hread hv hu.ready hu.deselected huo
  exact ⟨t, by rw [execAll_cons heu, execAll_cons het]; rfl, hrsp⟩

/-- The same after a command of one frame. -/
theorem execAll_oneFrame_then_read {i : Instr} {f : List Byte} {n m : Nat} {st : σ} {a : Byte} {rest : List Bool}
    {s : State} (hread : SlaveRead s.cfg v) (hfs : framesOf s.cfg i = some [f]) (h : Ready s) (hc : s.csN = some true)
    (hv : v.valid (v.waits m (v.frame (v.waits n st) f).2))
    (ho : OracleIs v st [(n, f), (m, [s.cfg.CMD_READ, a, s.cfg.DUMMY])] rest s) :
    ∃ t, execAll [i, .fRead a 0 0] s = .next t ∧
      t.rsp = okWord (zextData (v.content (v.waits m (v.frame (v.waits n st) f).2) a)) :=
  execAll_then_read (v := v) (fs := [f]) (pauses := [n]) (m := m) (st := st) hread hfs rfl h hc hv ho

theorem SlaveKeeps.waits (hk : SlaveKeeps v) {st : σ} (h : v.valid st) (n : Nat) : v.valid (v.waits n st) := by
  induction n generalizing st with
  | zero => exact h
  | succ n ih => exact ih (hk st h).1

theorem SlaveKeeps.frame (hk : SlaveKeeps v) {st : σ} (h : v.valid st) (outs : List Byte) :
    v.valid (v.frame st outs).2 := (hk st h).2 outs

/-- A register the slave does not change by itself keeps its content between frames. -/
theorem SlaveWrite.waits {g : Cfg} {plain : Byte → Prop} (hw : SlaveWrite g v plain) (hk : SlaveKeeps v) {st : σ}
    (h : v.valid st) {a : Byte} (ha : plain a) (n : Nat) : v.content (v.waits n st) a = v.content st a := by
  induction n generalizing st with
  | zero => rfl
  | succ n ih => exact (ih (hk st h).1).trans (hw st a h ha).2

/-- The second frame of F_RDRXB clears the flag of its buffer (41_frames.md R157). -/
theorem framesOf_fRdrxb {g : Cfg} {a b c mask : Byte} {f f' : List Byte}
    (h : framesOf g (.fRdrxb a b c) = some [f, f']) (hm : g.RXIF_BIT[a.toNat]? = some mask) :
    a.toNat < g.N_RX_BUF ∧ f' = [g.CMD_BITMOD, g.ADDR_CANINTF, mask, 0x00] := by
  simp only [framesOf, Option.ite_none_right_eq_some, hm, Option.map_some] at h
  obtain ⟨⟨ha, _⟩, h⟩ := h
  cases h
  exact ⟨ha, rfl⟩

end

/-- Settles O52: the command carries the session's replies (`exec_answered`). -/
theorem oracleAnswersAsSlave : Obligations.OracleAnswersAsSlave := by
  unfold Obligations.OracleAnswersAsSlave
  intro σ v st i fs pauses rest s hfs hp h hc ho
  obtain ⟨t, he, ht, hrest⟩ := exec_answered hfs hp h hc ho
  refine ⟨t, he, hrest, ht.slave.trans ho.1, ?_, fun k hk => ?_⟩
  · rw [ht.trace, if_pos hc]
    rfl
  · obtain ⟨is, r, his, hr, hrsp⟩ := ht.response k hk
    exact ⟨r, by rw [his]; exact hr, hrsp⟩

/-- Settles O53: a read gives the content (`exec_read`, `exec_readStatus`), after another command the content the slave then
has (`execAll_oneFrame_then_read`, `execAll_then_read`), and that content is what the premise of the clause promises. -/
theorem premisesGiveResponses : Obligations.PremisesGiveResponses := by
  unfold Obligations.PremisesGiveResponses
  intro σ v st g n rest hv hkeep hread
  have hvn := hkeep.waits hv n
  refine ⟨?read, ?status, ?write, ?bitmod, ?reset, ?mode, ?rxClear⟩
  case read =>
    rintro a b c s rfl h hc ho
    exact exec_read b c hread hvn h hc ho
  case status =>
    rintro hstatus a b c s rfl h hc ho
    exact exec_readStatus a b c hstatus hvn h hc ho
  case write =>
    rintro plain hwrite a x m s ha rfl h hc ho
    have hvf := hkeep.frame hvn [s.cfg.CMD_WRITE, a, x]
    obtain ⟨t, he, hrsp⟩ := execAll_oneFrame_then_read (i := .fWrite a x 0) hread rfl h hc (hkeep.waits hvf m) ho
    exact ⟨t, he, by rw [hrsp, hwrite.waits hkeep hvf ha, (hwrite _ a hvn ha).1]⟩
  case bitmod =>
    rintro modifiable hbitmod a mask x s ha rfl h hc ho
    have hvf := hkeep.frame hvn [s.cfg.CMD_BITMOD, a, mask, x]
    obtain ⟨t, he, hrsp⟩ := execAll_oneFrame_then_read (i := .fBitmod a mask x) (m := 0) hread rfl h hc hvf ho
    exact ⟨t, he, by rw [hrsp, SlaveView.waits, hbitmod _ a mask x hvn ha]⟩
  case reset =>
    rintro hreset s rfl h hc ho
    have hvf := hkeep.frame hvn [s.cfg.CMD_RESET]
    obtain ⟨t, he, hrsp⟩ := execAll_oneFrame_then_read (i := .fReset 0 0 0) (m := 0) hread rfl h hc hvf ho
    exact ⟨t, he, by rw [hrsp, okWord_byte]; exact hreset _ hvn⟩
  case mode =>
    intro hmode i f m hfs hreq
    obtain ⟨bound, hbound⟩ := hmode _ f m hvn hreq
    refine ⟨bound, ?_⟩
    rintro k s hk rfl h hc ho
    have hvf := hkeep.frame hvn f
    obtain ⟨t, he, hrsp⟩ := execAll_oneFrame_then_read hread hfs h hc (hkeep.waits hvf k) ho
    exact ⟨t, he, by rw [hrsp, okWord_byte]; exact hbound k hk⟩
  case rxClear =>
    rintro hclear a b mask f f' m s hfs hmask rfl h hc ho
    obtain ⟨ha, rfl⟩ := framesOf_fRdrxb hfs hmask
    have hvf := hkeep.waits (hkeep.frame hvn f) m
    have hvend := hkeep.frame hvf [s.cfg.CMD_BITMOD, s.cfg.ADDR_CANINTF, mask, 0x00]
    obtain ⟨t, he, hrsp⟩ := execAll_then_read (pauses := [n, m]) (m := 0) (st := st) hread hfs rfl h hc hvend ho
    exact ⟨t, he, by rw [hrsp, okWord_byte]; exact hclear _ a.toNat mask hvf ha hmask⟩

end Sys2Proof.Machine
end

section
/-! The reference slave over whole frames (20_memory.md R80 to R87): for each command what it replies and what is in its
registers afterwards. -/

namespace Sys2Proof.Machine

/-! The command bytes the slave must tell apart -/

/-- The command bytes that no selector changes (00_scope.md R9). -/
def fixedCommands (g : Cfg) : List Byte := [g.CMD_RESET, g.CMD_READ, g.CMD_WRITE, g.CMD_BITMOD, g.CMD_RDSTAT]

/-- The transmit buffers whose request byte the spec states (30_encoding.md R102). -/
def rtsBuffers (g : Cfg) : List Nat := (List.range g.N_TX_BUF).filter (fun n => decide (n < 8))

def rtsOf (g : Cfg) (n : Nat) : Byte := g.CMD_RTS_BASE ||| BitVec.ofNat 8 (1 <<< n)

/-- The bytes of F_RDRXB the spec states (30_encoding.md R103). -/
def rdrxbBytes (g : Cfg) : List Byte :=
  (g.rdrxbRange.filter (fun p => g.rdrxbInByte p.1 p.2)).map (fun p =>
    g.CMD_RDRXB_BASE ||| BitVec.ofNat 8 (p.1 <<< g.RDRXB_BUF_SHIFT) ||| BitVec.ofNat 8 (p.2 <<< g.RDRXB_DATA_SHIFT))

theorem commandBytes_eq (g : Cfg) :
    g.commandBytes = fixedCommands g ++ (rtsBuffers g).map (rtsOf g) ++ rdrxbBytes g := rfl

theorem fixedCommands_nodup {g : Cfg} (h : g.cmdDistinct = true) : (fixedCommands g).Nodup := by
  have hn : g.commandBytes.Nodup := of_decide_eq_true h
  rw [commandBytes_eq, List.append_assoc] at hn
  exact hn.of_append_left

theorem rtsBytes_nodup {g : Cfg} (h : g.cmdDistinct = true) : ((rtsBuffers g).map (rtsOf g)).Nodup := by
  have hn : g.commandBytes.Nodup := of_decide_eq_true h
  rw [commandBytes_eq] at hn
  exact hn.of_append_left.of_append_right

theorem not_rts_of_fixed {g : Cfg} (h : g.cmdDistinct = true) {o : Byte} (ho : o ∈ fixedCommands g) :
    o ∉ (rtsBuffers g).map (rtsOf g) := by
  have hn : g.commandBytes.Nodup := of_decide_eq_true h
  rw [commandBytes_eq] at hn
  exact (List.disjoint_of_nodup_append hn.of_append_left) ho

theorem not_rdrxb_of_fixed {g : Cfg} (h : g.cmdDistinct = true) {o : Byte} (ho : o ∈ fixedCommands g) :
    o ∉ rdrxbBytes g := by
  have hn : g.commandBytes.Nodup := of_decide_eq_true h
  rw [commandBytes_eq] at hn
  exact (List.disjoint_of_nodup_append hn) (List.mem_append_left _ ho)

theorem rtsSelector_eq_none {g : Cfg} {o : Byte} (ho : o ∉ (rtsBuffers g).map (rtsOf g)) : rtsSelector g o = none := by
  rw [rtsSelector, List.find?_eq_none]
  intro n hn hp
  obtain ⟨h8, hbyte⟩ := of_decide_eq_true hp
  exact ho (List.mem_map.mpr ⟨n, List.mem_filter.mpr ⟨hn, decide_eq_true h8⟩, hbyte⟩)

theorem rtsSelector_fixed {g : Cfg} (h : g.cmdDistinct = true) {o : Byte} (ho : o ∈ fixedCommands g) :
    rtsSelector g o = none := rtsSelector_eq_none (not_rts_of_fixed h ho)

/-- The slave finds the buffer a request byte was made for: no two of these bytes are equal. -/
theorem rtsSelector_rtsOf {g : Cfg} (h : g.cmdDistinct = true) {n : Nat} (hn : n < g.N_TX_BUF) (h8 : n < 8) :
    rtsSelector g (rtsOf g n) = some n := by
  have hmem : n ∈ rtsBuffers g := List.mem_filter.mpr ⟨List.mem_range.mpr hn, decide_eq_true h8⟩
  cases hfound : rtsSelector g (rtsOf g n) with
  | none => exact absurd (decide_eq_true ⟨h8, rfl⟩) (List.find?_eq_none.mp hfound n (List.mem_range.mpr hn))
  | some m =>
    rw [rtsSelector] at hfound
    have hp := List.find?_some hfound
    obtain ⟨hm8, hbyte⟩ := of_decide_eq_true hp
    have hm : m ∈ rtsBuffers g := List.mem_filter.mpr ⟨List.mem_of_find?_eq_some hfound, decide_eq_true hm8⟩
    rw [List.inj_on_of_nodup_map (rtsBytes_nodup h) hm hmem hbyte]

/-! Its registers -/

/-- What the register `y` holds after the slave stored `v` at `a`: the mode-status register follows the mode-control
register unless the slave is stuck (R86, R87). -/
def readAfterStore (g : Cfg) (stuck : Bool) (m : Memory) (a v y : Byte) : Byte :=
  if y = a then v
  else if stuck = false ∧ a = g.ADDR_CANCTRL ∧ y = g.ADDR_CANSTAT then
    maskedUpdate (m.read g.ADDR_CANSTAT) g.MODE_MASK v
  else m.read y

theorem read_refStore {g : Cfg} {stuck : Bool} {r : RefSlave} (hd : AddrDistinct g) (hw : r.sreg.wf = true) (v y : Byte) :
    (refStore g stuck r v).sreg.read y = readAfterStore g stuck r.sreg r.addr v y := by
  have hw' := write_wf r.addr v hw
  obtain ⟨hcs, _, _⟩ := hd
  unfold refStore refModeHook readAfterStore
  cases stuck with
  | true => simp [read_write _ _ _ hw, eq_comm]
  | false =>
    by_cases ha : r.addr = g.ADDR_CANCTRL
    · simp only [ha, Bool.false_eq_true, if_false, if_true] at hw' ⊢
      rw [read_write_same _ _ hw, read_write_other _ hcs, read_write _ _ _ hw', read_write _ _ _ hw]
      by_cases hs : g.ADDR_CANSTAT = y
      · subst hs
        simp [Ne.symm hcs]
      · simp [hs, Ne.symm hs, eq_comm]
    · simp [ha, read_write _ _ _ hw, eq_comm]

theorem read_refResetMode {g : Cfg} {r : RefSlave} (hw : r.sreg.wf = true) (y : Byte) :
    (refResetMode g r).sreg.read y = if y = g.ADDR_CANCTRL ∨ y = g.ADDR_CANSTAT
      then (r.sreg.read y &&& ~~~g.MODE_MASK) ||| g.MODE_CONFIG else r.sreg.read y := by
  unfold refResetMode
  simp only [read_write _ _ _ (write_wf _ _ hw), read_write _ _ _ hw]
  grind

/-! Its part of a frame, command by command -/

theorem refBytes_cons (g : Cfg) (stuck : Bool) (r : RefSlave) (o : Byte) (os : List Byte) :
    refBytes g stuck r (o :: os) = (refReply g r :: (refBytes g stuck (refReceive g stuck { r with rx := o } o) os).1,
      (refBytes g stuck (refReceive g stuck { r with rx := o } o) os).2) := rfl

theorem refBytes_length (g : Cfg) (stuck : Bool) (r : RefSlave) (outs : List Byte) :
    (refBytes g stuck r outs).1.length = outs.length := by
  induction outs generalizing r with
  | nil => rfl
  | cons o os ih => simp [refBytes_cons, ih]

theorem refBytes_wf {g : Cfg} {stuck : Bool} {r : RefSlave} (outs : List Byte) (h : r.sreg.wf = true) :
    (refBytes g stuck r outs).2.sreg.wf = true := by
  induction outs generalizing r with
  | nil => exact h
  | cons o os ih => exact ih (refReceive_wf o h)

/-- The slave with the command byte `o` received, before it acts on a second byte. -/
def refCommanded (r : RefSlave) (o : Byte) : RefSlave := { refCsFall r with rx := o, cmd := some o, idx := 1 }

/-- The slave with the register addressed by the second byte `a` after the command byte `o`. -/
def refAddressed (r : RefSlave) (o a : Byte) : RefSlave :=
  { refCsFall r with rx := a, cmd := some o, idx := 2, addr := a }

/-- A fixed command byte other than the reset command changes nothing but the place in the frame (R82). -/
theorem refReceive_command {g : Cfg} (stuck : Bool) (r : RefSlave) (h : g.cmdDistinct = true) {o : Byte}
    (ho : o ∈ fixedCommands g) (hr : o ≠ g.CMD_RESET) :
    refReceive g stuck { refCsFall r with rx := o } o = refCommanded r o := by
  simp [refReceive, refActs, refCommand, refCsFall, refCommanded, hr, rtsSelector_fixed h ho]

/-- The second byte of a read, a write or a bit-modify is the address (R84, R85). -/
theorem refReceive_address {g : Cfg} (stuck : Bool) (r : RefSlave) {o : Byte}
    (ho : o = g.CMD_READ ∨ o = g.CMD_WRITE ∨ o = g.CMD_BITMOD) (a : Byte) :
    refReceive g stuck { refCommanded r o with rx := a } a = refAddressed r o a := by
  simp only [refReceive, refActs, refCommanded, if_pos ho]
  rfl

section

variable {g : Cfg} {stuck : Bool} {r : RefSlave} (h : g.cmdDistinct = true)
include h

/-- Two bytes of a read, a write or a bit-modify. -/
theorem refBytes_addressed {o : Byte} (ho : o = g.CMD_READ ∨ o = g.CMD_WRITE ∨ o = g.CMD_BITMOD) (a : Byte)
    (os : List Byte) : (refBytes g stuck (refCsFall r) (o :: a :: os)).1.drop 2 =
        (refBytes g stuck (refAddressed r o a) os).1 ∧
      (refBytes g stuck (refCsFall r) (o :: a :: os)).2 = (refBytes g stuck (refAddressed r o a) os).2 := by
  have hmem : o ∈ fixedCommands g := by
    simp only [fixedCommands, List.mem_cons]
    grind
  have hreset : o ≠ g.CMD_RESET := by
    have hn := fixedCommands_nodup h
    simp only [fixedCommands, List.nodup_cons, List.mem_cons] at hn
    grind
  rw [refBytes_cons, refReceive_command stuck r h hmem hreset, refBytes_cons, refReceive_address stuck r ho]
  exact ⟨rfl, rfl⟩

/-- A read replies the register addressed with its third byte and stores nothing (R84). -/
theorem refBytes_read (a d : Byte) (os : List Byte) :
    (refBytes g stuck (refCsFall r) (g.CMD_READ :: a :: d :: os)).1[2]? = some (r.sreg.read a) := by
  obtain ⟨hreplies, _⟩ := refBytes_addressed (stuck := stuck) (r := r) h (.inl rfl) a (d :: os)
  rw [← Nat.add_zero 2, ← List.getElem?_drop, hreplies, refBytes_cons]
  simp [refReply, refAddressed, refCsFall]

theorem refBytes_read_sreg (a d : Byte) :
    (refBytes g stuck (refCsFall r) [g.CMD_READ, a, d]).2.sreg = r.sreg := by
  have hn := fixedCommands_nodup h
  simp only [fixedCommands, List.nodup_cons, List.mem_cons, not_or] at hn
  obtain ⟨_, ⟨hrw, hrb, _⟩, _⟩ := hn
  rw [(refBytes_addressed h (.inl rfl) a [d]).2, refBytes_cons]
  simp [refBytes, refReceive, refActs, refAddressed, refCsFall, hrw, hrb]

/-- A write stores its third byte (R84, R86). -/
theorem read_refBytes_write (hd : AddrDistinct g) (hw : r.sreg.wf = true) (a v y : Byte) :
    (refBytes g stuck (refCsFall r) [g.CMD_WRITE, a, v]).2.sreg.read y = readAfterStore g stuck r.sreg a v y := by
  rw [(refBytes_addressed h (.inr (.inl rfl)) a [v]).2, refBytes_cons]
  simp only [refBytes, refReceive, refActs, refAddressed, if_true]
  exact read_refStore (r := { refAddressed r g.CMD_WRITE a with rx := v }) hd hw v y

/-- A bit-modify stores the masked update (R85, R86). -/
theorem read_refBytes_bitmod (hd : AddrDistinct g) (hw : r.sreg.wf = true) (a m v y : Byte) :
    (refBytes g stuck (refCsFall r) [g.CMD_BITMOD, a, m, v]).2.sreg.read y =
      readAfterStore g stuck r.sreg a (maskedUpdate (r.sreg.read a) m v) y := by
  have hn := fixedCommands_nodup h
  simp only [fixedCommands, List.nodup_cons, List.mem_cons, not_or] at hn
  obtain ⟨_, _, ⟨hwb, _⟩, _⟩ := hn
  rw [(refBytes_addressed h (.inr (.inr rfl)) a [m, v]).2, refBytes_cons, refBytes_cons]
  simp only [refBytes, refReceive, refActs, refAddressed, if_neg (Ne.symm hwb), if_true]
  exact read_refStore (r := { refAddressed r g.CMD_BITMOD a with rx := v, mask := m, idx := 3 }) hd hw _ y

/-- A reset forces the mode (R82). -/
theorem read_refBytes_reset (hw : r.sreg.wf = true) (y : Byte) :
    (refBytes g stuck (refCsFall r) [g.CMD_RESET]).2.sreg.read y = if y = g.ADDR_CANCTRL ∨ y = g.ADDR_CANSTAT
      then (r.sreg.read y &&& ~~~g.MODE_MASK) ||| g.MODE_CONFIG else r.sreg.read y := by
  have hsel : rtsSelector g g.CMD_RESET = none := rtsSelector_fixed h (List.mem_cons_self ..)
  simp only [refBytes, refReceive, refActs, refCommand, refCsFall, if_true, hsel]
  exact read_refResetMode (r := { refCsFall r with rx := g.CMD_RESET, cmd := some g.CMD_RESET }) hw y

/-- A read of the status replies the two receive flags with its second byte (R83). -/
theorem refBytes_status (d : Byte) (os : List Byte) :
    (refBytes g stuck (refCsFall r) (g.CMD_RDSTAT :: d :: os)).1[1]? =
      some (r.sreg.read g.ADDR_CANINTF &&& 0x03) := by
  have hn := fixedCommands_nodup h
  simp only [fixedCommands, List.nodup_cons, List.mem_cons, not_or] at hn
  obtain ⟨⟨_, _, _, hr, _⟩, ⟨_, _, hrd, _⟩, ⟨_, hwr, _⟩, ⟨hb, _⟩, _⟩ := hn
  rw [refBytes_cons, refReceive_command stuck r h (by simp [fixedCommands]) (Ne.symm hr), refBytes_cons]
  simp [refReply, refCommanded, Ne.symm hrd, Ne.symm hwr, Ne.symm hb, refCsFall]

theorem refBytes_status_kept (d : Byte) :
    (refBytes g stuck (refCsFall r) [g.CMD_RDSTAT, d]).2.sreg = r.sreg ∧
      (refBytes g stuck (refCsFall r) [g.CMD_RDSTAT, d]).2.rtsLog = r.rtsLog := by
  have hn := fixedCommands_nodup h
  simp only [fixedCommands, List.nodup_cons, List.mem_cons, not_or] at hn
  obtain ⟨⟨_, _, _, hr, _⟩, ⟨_, _, hrd, _⟩, ⟨_, hwr, _⟩, ⟨hb, _⟩, _⟩ := hn
  rw [refBytes_cons, refReceive_command stuck r h (by simp [fixedCommands]) (Ne.symm hr), refBytes_cons]
  simp [refBytes, refReceive, refActs, refCommanded, Ne.symm hrd, Ne.symm hwr, Ne.symm hb, refCsFall]

/-- A request to send asks for its buffer and stores nothing (R82). -/
theorem refBytes_rts {n : Nat} (hn : n < g.N_TX_BUF) (h8 : n < 8) :
    (refBytes g stuck (refCsFall r) [rtsOf g n]).2.sreg = r.sreg ∧
      (refBytes g stuck (refCsFall r) [rtsOf g n]).2.rtsLog = r.rtsLog ++ [BitVec.ofNat 8 n] := by
  have hreset : rtsOf g n ≠ g.CMD_RESET := fun e =>
    not_rts_of_fixed h (List.mem_cons_self ..)
      (e ▸ List.mem_map_of_mem (List.mem_filter.mpr ⟨List.mem_range.mpr hn, decide_eq_true h8⟩))
  simp [refBytes, refReceive, refActs, refCommand, refCsFall, hreset, rtsSelector_rtsOf h hn h8]

end

/-- A command byte other than the reset command changes no register. -/
theorem refCommand_kept {g : Cfg} {o : Byte} (ho : o ≠ g.CMD_RESET) (r : RefSlave) :
    (refCommand g r o).sreg = r.sreg ∧ (refCommand g r o).idx = r.idx := by
  simp only [refCommand, if_neg ho]
  split <;> exact ⟨rfl, rfl⟩

/-- The second byte of a frame changes no register: it is an address or nothing (R82 to R85). -/
theorem refReceive_second {g : Cfg} {stuck : Bool} {r : RefSlave} (hi : r.idx = 1) (o : Byte) :
    (refReceive g stuck r o).sreg = r.sreg := by
  cases hc : r.cmd with
  | none => simp [refReceive, refActs, hi, hc]
  | some c =>
    simp only [refReceive, refActs, hi, hc]
    split <;> rfl

theorem refBytes_two_sreg {g : Cfg} {stuck : Bool} {r : RefSlave} {o : Byte} (ho : o ≠ g.CMD_RESET) (d : Byte) :
    (refBytes g stuck (refCsFall r) [o, d]).2.sreg = r.sreg := by
  obtain ⟨hsreg, hidx⟩ := refCommand_kept ho { refCsFall r with rx := o }
  have hfirst : (refReceive g stuck { refCsFall r with rx := o } o).idx = 1 := congrArg (· + 1) hidx
  exact (refReceive_second (r := { refReceive g stuck { refCsFall r with rx := o } o with rx := d }) hfirst d).trans hsreg

/-! The masked update -/

theorem maskedUpdate_and_mask (old m v : Byte) : maskedUpdate old m v &&& m = v &&& m := by
  ext i
  simp only [maskedUpdate, BitVec.getElem_and, BitVec.getElem_or, BitVec.getElem_not]
  cases m[i] <;> simp

theorem maskedUpdate_zero (old m : Byte) : maskedUpdate old m 0 = old &&& ~~~m := by
  simp [maskedUpdate]

theorem forced_and_mask (old m c : Byte) : ((old &&& ~~~m) ||| c) &&& m = c &&& m := by
  ext i
  simp only [BitVec.getElem_and, BitVec.getElem_or, BitVec.getElem_not]
  cases m[i] <;> simp

end Sys2Proof.Machine
end

section
/-! The reference slave meets the premises on a slave (20_memory.md R74), and what a frame command does with it behind the
block (R84 to R87). -/

namespace Sys2Proof.Machine

/-! As a slave of bytes -/

theorem refView_bytes (g : Cfg) (stuck : Bool) (r : RefSlave) (outs : List Byte) :
    (refView g stuck).bytes r outs = refBytes g stuck r outs := by
  induction outs generalizing r with
  | nil => rfl
  | cons o os ih => exact congrArg (fun q => (refReply g r :: q.1, q.2)) (ih _)

theorem refView_frame (g : Cfg) (stuck : Bool) (r : RefSlave) (outs : List Byte) :
    (refView g stuck).frame r outs = refBytes g stuck (refCsFall r) outs := refView_bytes g stuck (refCsFall r) outs

theorem refView_waits (g : Cfg) (stuck : Bool) (n : Nat) (r : RefSlave) : (refView g stuck).waits n r = r := by
  induction n with
  | zero => rfl
  | succ n ih => exact ih

theorem refView_content (g : Cfg) (stuck : Bool) (r : RefSlave) (a : Byte) :
    (refView g stuck).content r a = r.sreg.read a := rfl

/-- The slave that is not stuck reports at once the mode a store to its mode-control register leaves there (R86). -/
theorem slaveMode_afterStore {g : Cfg} (hd : AddrDistinct g) {m : Memory} (v : Byte) :
    readAfterStore g false m g.ADDR_CANCTRL v g.ADDR_CANSTAT &&& g.MODE_MASK = v &&& g.MODE_MASK := by
  rw [readAfterStore, if_neg (Ne.symm hd.1), if_pos ⟨rfl, rfl, rfl⟩, maskedUpdate_and_mask]

section

variable {g : Cfg} (h : g.cmdDistinct = true) (hd : AddrDistinct g)

theorem refView_keeps (stuck : Bool) : SlaveKeeps (refView g stuck) := by
  refine fun r hw => ⟨hw, fun outs => ?_⟩
  rw [refView_frame]
  exact refBytes_wf outs hw

theorem refView_powerOn (stuck : Bool) : SlavePowerOn g (refView g stuck) (refInit g) := by
  rw [SlavePowerOn, slaveMode, refView_content, refInit, read_write_same _ _ (write_wf _ _ rfl)]

include h

theorem refView_read (stuck : Bool) : SlaveRead g (refView g stuck) := by
  intro r a d more _
  rw [refView_frame]
  exact refBytes_read h a d more

theorem refView_status (stuck : Bool) : SlaveStatus g (refView g stuck) := by
  intro r d more _
  rw [refView_frame]
  exact refBytes_status h d more

theorem refView_reset (stuck : Bool) : SlaveReset g (refView g stuck) := by
  intro r hw
  rw [slaveMode, refView_content, refView_frame, read_refBytes_reset h hw, if_pos (.inr rfl), forced_and_mask]

include hd

theorem refView_write (stuck : Bool) : SlaveWrite g (refView g stuck) (fun _ => True) := by
  refine fun r a hw _ => ⟨fun x => ?_, rfl⟩
  rw [refView_content, refView_frame, read_refBytes_write h hd hw, readAfterStore, if_pos rfl]

theorem refView_bitMod (stuck : Bool) : SlaveBitMod g (refView g stuck) (fun _ => True) := by
  intro r a m x hw _
  rw [refView_content, refView_frame, read_refBytes_bitmod h hd hw, readAfterStore, if_pos rfl]
  rfl

theorem refView_rxClear (stuck : Bool) : SlaveRxClear g (refView g stuck) := by
  intro r b mask hw _ _
  rw [refView_bitMod h hd stuck r _ mask 0 hw trivial, maskedUpdate_and_mask]
  exact BitVec.zero_and

theorem refView_modeWithin : SlaveModeWithin g (refView g false) 0 := by
  intro r f m hw hreq n _
  rw [refView_waits, slaveMode, refView_content, refView_frame]
  obtain ⟨x, rfl, rfl⟩ | ⟨mask, x, rfl, _, rfl⟩ := hreq
  · rw [read_refBytes_write h hd hw, slaveMode_afterStore hd]
  · rw [read_refBytes_bitmod h hd hw, slaveMode_afterStore hd]
    rfl

end

/-- Settles O51, premise by premise (`refView_read` and its neighbours). -/
theorem referenceMeetsPremises : Obligations.ReferenceMeetsPremises := by
  unfold Obligations.ReferenceMeetsPremises
  intro g h hd
  have hmode := refView_modeWithin h hd
  exact ⟨fun stuck => ⟨refView_keeps stuck, refView_read h stuck, refView_write h hd stuck, refView_bitMod h hd stuck,
    refView_status h stuck, refView_reset h stuck, refView_powerOn stuck, refView_rxClear h hd stuck⟩,
    hmode, fun r f m hw hreq => ⟨0, hmode r f m hw hreq⟩⟩

/-! Behind the block -/

/-- Whether the reference slave named is the stuck one (R87). -/
def isStuck (s : State) : Bool := decide (s.slave = .referenceStuck)

theorem isStuck_of_reference {s : State} (h : s.slave = .reference) : isStuck s = false := by simp [isStuck, h]

theorem isStuck_eq_false_iff {s : State} (h : s.slave ≠ .oracle) : isStuck s = false ↔ s.slave = .reference := by
  unfold isStuck
  cases hs : s.slave <;> simp_all

theorem SlaveBytes.reference {s t : State} {outs ins : List Byte} (h : SlaveBytes s t outs ins) (hk : s.slave ≠ .oracle) :
    ins = (refBytes s.cfg (isStuck s) s.ref outs).1 ∧ t.ref = (refBytes s.cfg (isStuck s) s.ref outs).2 := by
  have heq : (ins, t.ref) = refBytes s.cfg (isStuck s) s.ref outs := by
    unfold SlaveBytes at h
    unfold isStuck
    cases hs : s.slave with
    | oracle => exact absurd hs hk
    | reference => rw [hs] at h; exact h.1
    | referenceStuck => rw [hs] at h; exact h.1
  exact ⟨congrArg Prod.fst heq, congrArg Prod.snd heq⟩

/-- In a whole frame the slave sees the fall of chip-select first. -/
theorem SlaveAnswered.reference {s t : State} {outs ins : List Byte} (h : SlaveAnswered s t outs ins)
    (hk : s.slave ≠ .oracle) : ins = (refBytes s.cfg (isStuck s) (refCsFall s.ref) outs).1 ∧
      t.ref = (refBytes s.cfg (isStuck s) (refCsFall s.ref) outs).2 := by
  rw [SlaveAnswered, slaveCsFall_eq, slaveCsFall_ref, if_neg hk] at h
  exact h.reference hk

/-- A command of one frame with a reference slave: the replies and the state of the slave after the frame. -/
theorem exec_oneFrame_reference {i : Instr} {f : List Byte} {s : State} (hfs : framesOf s.cfg i = some [f]) (h : Ready s)
    (hc : s.csN = some true) (hk : s.slave ≠ .oracle) :
    ∃ t, exec i s = .next t ∧ FramesDone i s t [f] [(refBytes s.cfg (isStuck s) (refCsFall s.ref) f).1] ∧
      t.ref = (refBytes s.cfg (isStuck s) (refCsFall s.ref) f).2 := by
  obtain ⟨t, ins, he, ht, hsl⟩ := exec_framesOf hfs h (by simp [hc])
  rw [if_pos hc] at hsl
  match ins, ht.lengths with
  | [is], _ =>
    obtain ⟨rfl, hr⟩ := SlaveAnswered.reference hsl.bytes hk
    exact ⟨t, he, ht, hr⟩

/-- Its response, where byte `k` of the frame carries one. -/
theorem FramesDone.rsp {i : Instr} {s t : State} {f is : List Byte} {k : Nat} {r : Byte} (ht : FramesDone i s t [f] [is])
    (hk : resultByte i = some k) (hr : is[k]? = some r) : t.rsp = okWord (zextData r) := by
  obtain ⟨is', r', his, hr', hrsp⟩ := ht.response k hk
  cases his
  cases hr.symm.trans hr'
  exact hrsp

/-- Settles O54: the slave replies the register (`refBytes_read`) and keeps all of them. -/
theorem readReturnsRegister : Obligations.ReadReturnsRegister := by
  unfold Obligations.ReadReturnsRegister
  intro a b c s h hc hk hg
  obtain ⟨t, he, ht, hr⟩ := exec_oneFrame_reference (i := .fRead a b c) rfl h hc hk
  exact ⟨t, he, ht.rsp rfl (refBytes_read hg a _ []), fun x => by rw [hr, refBytes_read_sreg hg]⟩

/-- What a store leaves in the registers when the slave of the block made it. -/
theorem store_reference {s t : State} (hk : s.slave ≠ .oracle) (hd : AddrDistinct s.cfg) {a v : Byte}
    (hread : ∀ y, t.ref.sreg.read y = readAfterStore s.cfg (isStuck s) s.ref.sreg a v y) :
    t.ref.sreg.read a = v ∧
      (s.slave = .reference → a = s.cfg.ADDR_CANCTRL → t.ref.sreg.read s.cfg.ADDR_CANSTAT =
        maskedUpdate (s.ref.sreg.read s.cfg.ADDR_CANSTAT) s.cfg.MODE_MASK v) ∧
      ∀ x, x ≠ a → ¬(s.slave = .reference ∧ a = s.cfg.ADDR_CANCTRL ∧ x = s.cfg.ADDR_CANSTAT) →
        t.ref.sreg.read x = s.ref.sreg.read x := by
  refine ⟨?_, ?_, ?_⟩
  · rw [hread, readAfterStore, if_pos rfl]
  · rintro hs rfl
    rw [hread, readAfterStore, if_neg (Ne.symm hd.1), if_pos ⟨isStuck_of_reference hs, rfl, rfl⟩]
  · intro x hx hmode
    rw [hread, readAfterStore, if_neg hx, if_neg (by rwa [isStuck_eq_false_iff hk])]

/-- Settles O55: the slave stores the third byte (`read_refBytes_write`). -/
theorem writeStoresRegister : Obligations.WriteStoresRegister := by
  unfold Obligations.WriteStoresRegister
  intro a b c s h hc hk hg hd hw
  obtain ⟨t, he, _, hr⟩ := exec_oneFrame_reference (i := .fWrite a b c) rfl h hc hk
  exact ⟨t, he, store_reference hk hd fun y => by rw [hr, read_refBytes_write hg hd hw]⟩

/-- Settles O56: the slave stores the masked update (`read_refBytes_bitmod`). -/
theorem bitmodUpdatesRegister : Obligations.BitmodUpdatesRegister := by
  unfold Obligations.BitmodUpdatesRegister
  intro a m v s h hc hk hg hd hw
  obtain ⟨t, he, _, hr⟩ := exec_oneFrame_reference (i := .fBitmod a m v) rfl h hc hk
  obtain ⟨hat, hmode, hother⟩ :=
    store_reference (t := t) hk hd fun y => by rw [hr, read_refBytes_bitmod hg hd hw]
  refine ⟨t, he, hat, hmode, ?_, hother⟩
  rintro hs ha rfl
  rw [hmode hs ha, maskedUpdate_and_mask, maskedUpdate_and_mask]

/-- Settles O57: the slave forces the mode (`read_refBytes_reset`). -/
theorem resetForcesConfiguration : Obligations.ResetForcesConfiguration := by
  unfold Obligations.ResetForcesConfiguration
  intro a b c s h hc hk hg _ hw
  obtain ⟨t, he, _, hr⟩ := exec_oneFrame_reference (i := .fReset a b c) rfl h hc hk
  exact ⟨t, he, fun x => by rw [hr, read_refBytes_reset hg hw]⟩

/-- Settles O58: the status (`refBytes_status`) and the request (`refBytes_rts`). -/
theorem statusAndRequestStoreNothing : Obligations.StatusAndRequestStoreNothing := by
  unfold Obligations.StatusAndRequestStoreNothing
  intro a b c s h hc hk hg
  refine ⟨?status, fun hn h8 => ?request⟩
  case status =>
    obtain ⟨t, he, ht, hr⟩ := exec_oneFrame_reference (i := .fRdstat a b c) rfl h hc hk
    obtain ⟨hsreg, hlog⟩ := refBytes_status_kept (stuck := isStuck s) (r := s.ref) hg s.cfg.DUMMY
    exact ⟨t, he, ht.rsp rfl (refBytes_status hg _ []), by rw [hr, hlog], fun x => by rw [hr, hsreg]⟩
  case request =>
    have hfs : framesOf s.cfg (.fRts a b c) = some [[rtsOf s.cfg a.toNat]] := by
      rw [framesOf, if_pos ⟨hn, h8⟩, rtsOf, Nat.one_shiftLeft]
    obtain ⟨t, he, _, hr⟩ := exec_oneFrame_reference hfs h hc hk
    obtain ⟨hsreg, hlog⟩ := refBytes_rts (stuck := isStuck s) (r := s.ref) hg hn h8
    exact ⟨t, he, by rw [hr, hlog, BitVec.ofNat_toNat, BitVec.setWidth_eq], fun x => by rw [hr, hsreg]⟩

/-- Settles O59: the write stores the value (O55) and the read returns it (O54). -/
theorem roundTrip : Obligations.RoundTrip := by
  unfold Obligations.RoundTrip
  intro a v s h hc hk hg hd hw
  obtain ⟨u, heu, hu, hr⟩ := exec_oneFrame_reference (i := .fWrite a v 0) rfl h hc hk
  have hstored : u.ref.sreg.read a = v := by
    rw [hr, read_refBytes_write hg hd hw, readAfterStore, if_pos rfl]
  obtain ⟨t, het, hrsp, _⟩ :=
    readReturnsRegister a 0 0 u hu.ready hu.deselected (hu.slave ▸ hk) (hu.cfg ▸ hg)
  exact ⟨t, by rw [execAll_cons heu, execAll_cons het]; rfl, by rw [hrsp, hstored]⟩

/-- The first byte of F_RDRXB is not the reset command. -/
theorem rdrxbByte_ne_reset {g : Cfg} (h : g.cmdDistinct = true) {a b : Byte} (ha : a.toNat < g.N_RX_BUF)
    (hb : b.toNat < 2) (hin : g.rdrxbInByte a.toNat b.toNat = true) :
    g.CMD_RDRXB_BASE ||| BitVec.ofNat 8 (a.toNat <<< g.RDRXB_BUF_SHIFT) |||
      BitVec.ofNat 8 (b.toNat <<< g.RDRXB_DATA_SHIFT) ≠ g.CMD_RESET := by
  intro e
  have hrange : (a.toNat, b.toNat) ∈ g.rdrxbRange := by
    refine List.mem_flatMap.mpr ⟨a.toNat, List.mem_range.mpr ha, ?_⟩
    simp only [List.mem_cons, Prod.mk.injEq, true_and, List.not_mem_nil, or_false]
    omega
  exact not_rdrxb_of_fixed h (List.mem_cons_self ..)
    (List.mem_map.mpr ⟨(a.toNat, b.toNat), List.mem_filter.mpr ⟨hrange, hin⟩, e⟩)

/-- Settles O60: the first frame stores nothing (`refBytes_two_sreg`), the second clears the flag
(`read_refBytes_bitmod`). -/
theorem rdrxbClearsFlag : Obligations.RdrxbClearsFlag := by
  unfold Obligations.RdrxbClearsFlag
  intro a b c m s h hc hk hg hd hw ha hb hsa hsb hm
  have hbyte := rdrxbByte_eq_some ha hb hsa hsb
  have hmask : rxifBit s.cfg a = some m := (rxifBit_of_lt ha).trans hm
  obtain ⟨t, u, o, m', i0, i1, j0, j1, j2, j3, he, ho, hm', hslave, hcfg, hfirst, hsecond, _⟩ :=
    exec_fRdrxb a b c h hc
  obtain rfl := ho _ hbyte
  obtain rfl := hm' _ hmask
  obtain ⟨_, hru⟩ := (hfirst (by simp [hbyte])).reference hk
  obtain ⟨_, hrt⟩ := (hsecond (by simp [hmask])).reference (hslave ▸ hk)
  have hreset := rdrxbByte_ne_reset hg ha hb (by simp [Cfg.rdrxbInByte, hsa, hsb])
  have hsreg : u.ref.sreg = s.ref.sreg := by rw [hru, refBytes_two_sreg hreset]
  have hread : ∀ y, t.ref.sreg.read y = if y = s.cfg.ADDR_CANINTF
      then s.ref.sreg.read s.cfg.ADDR_CANINTF &&& ~~~m' else s.ref.sreg.read y := by
    intro y
    rw [hrt, hcfg, read_refBytes_bitmod hg hd (hsreg ▸ hw), hsreg, maskedUpdate_zero, readAfterStore,
      if_neg (c := _ ∧ _) fun e => hd.2.1 e.2.1.symm]
  exact ⟨t, he, by rw [hread, if_pos rfl], fun x hx => by rw [hread, if_neg hx]⟩

end Sys2Proof.Machine
end
